-- ==== Sys2Proof/Word.lean ====
section
/-!
DEFINITION. The words of the hardware: a brightness or buffer byte, a command word, a response word.
Sizes, counts, cursors and symbols are natural numbers (R14, R107).
-/
namespace Sys2Proof

/-- A brightness value (R21) or a byte of the output buffer (R28). -/
abbrev Byte := BitVec 8

/-- A command word `CMD` (R86). -/
abbrev Word := BitVec 32

/-- A response word `RSP` (R91). -/
abbrev Rsp := BitVec 16

end Sys2Proof
end

