-- ==== Sys2Proof/Syntax.lean ====
section
/-!
DEFINITION. The operations of the hardware (R15) and the data they carry: one constructor of `Instr` per row of
spec/opcode_table.json.
-/
namespace Sys2Proof

/-- The open parameters of R8 that CONSTRUCT takes as operands (R230). A symbol is a W-bit pattern held as a natural
number: its sub-bit t is bit t (R80, R120). -/
structure Params where
  /-- `W`, sub-bits per symbol (R8, R9). -/
  w : Nat
  /-- `SYM0`, the symbol of logical 0 (R10, R116). -/
  sym0 : Nat
  /-- `SYM1`, the symbol of logical 1 (R10, R117). -/
  sym1 : Nat
  /-- `RESET_BITS`, the reset hold in bus-bits (R103). -/
  resetBits : Nat
  /-- `TRAILER_BYTES`, the trailer margin (R104). -/
  trailerBytes : Nat
  /-- `SIZE_MAX`, the largest length that can be allocated; `none` is infinity (R8, R205). -/
  sizeMax : Option Nat
deriving DecidableEq, Repr

/-- A colour role (R29, R164). -/
inductive Role where
  | red
  | green
  | blue
deriving DecidableEq, Repr

/-- What the bus transmitter answers: Ok, or Err with the opaque error code e (R182; 8 bits by D7). -/
inductive TxResult where
  | ok
  | err (e : Byte)
deriving DecidableEq, Repr, Inhabited

/-- The operations (R15) and the two symbols, one constructor per row of the opcode table. -/
inductive Instr where
  /-- `SYM0`, the 0-symbol (R116). -/
  | sym0
  /-- `SYM1`, the 1-symbol (R117). -/
  | sym1
  /-- `SET c, v` (R175). The channel index is a natural number: the abstract command is primary (C9). -/
  | set (c : Nat) (v : Byte)
  /-- `GET c` (R161). -/
  | get (c : Nat)
  /-- `BUFSIZE(n)` (R100). -/
  | bufsize (n : Nat)
  /-- `ENCODE(b)` (R115). -/
  | encode (b : Bool)
  /-- `RENDER()` (R130). -/
  | render
  /-- `DECODE(buf, n)` (R143). -/
  | decode (buf : List Byte) (n : Nat)
  /-- `TRANSMIT()` (R182). -/
  | transmit
  /-- `CONSTRUCT(cfg)` (R230): the parameters, the optional `led_count`, the optional `color_order` as its characters. -/
  | construct (p : Params) (led : Option Int) (order : Option (List Char))
  /-- `TEARDOWN` (R236). -/
  | teardown
deriving DecidableEq, Repr

/-- What a requester issues (R86): a command word, or a command in its abstract form. -/
inductive Request where
  | word (w : Word)
  | set (c : Nat) (v : Byte)
  | get (c : Nat)
deriving DecidableEq, Repr

/-- What stands at the input port: a command word (R17, R86), or one symbol pattern held against the symbol table
(R80, R121; the two symbol rows of the opcode table reach the decoder this way, log 12). -/
inductive Fetch where
  | command (w : Word)
  | symbol (y : Nat)
deriving DecidableEq, Repr

/-- What is open at one step around the commands: the requests that requesters issue, and which waiting request starts
when the lock is free (R185). -/
structure Choice where
  issued : List Request
  granted : Nat
deriving DecidableEq, Repr

/-- What the lifecycle host and the configuration source may do at a step (R217). -/
inductive HostEvent where
  | quiet
  | construct (p : Params) (led : Option Int) (order : Option (List Char))
  | teardown
deriving DecidableEq, Repr, Inhabited

end Sys2Proof
end

