-- ==== Sys2Proof/Config.lean ====
section
/-!
DEFINITION. What is fixed for the machine and what the spec leaves free: the reference parameters (D1 to D4, D17), the
open parameter `NAME` (D16), and the free inputs of the environment (R182, R185, R217). A free input is an opaque
function of the number of the draw: nothing can be proved about its value, so a claim holds for every value.
-/
namespace Sys2Proof

/-- `COLORS_PER_LED`, "fixed" (R8, R21). -/
def Config.colorsPerLed : Nat := 3

/-- The reference configuration of R8 (DESIGN CHOICE, log 1: the spec's own reference values, D1 to D4 and D17). -/
def Config.reference : Params :=
  { w := 3, sym0 := 0b100, sym1 := 0b110, resetBits := 132, trailerBytes := 4, sizeMax := none }

/-- The colour order used where the configuration source supplies none (R166, R231). -/
def Config.defaultOrder : List Char := ['G', 'R', 'B']

/-- `NAME`, the open parameter: the display name of a channel from its LED number and its role (R169, D16; log 10). -/
opaque Config.name : Nat → Role → String

/-- FREE VALUE: the transmitter's answer at the k-th draw (R182 `draw r`; log 4). -/
opaque Config.txResult : Nat → TxResult

/-- FREE VALUE: the requests that requesters issue at the k-th draw (R185, R217; log 5). -/
opaque Config.issued : Nat → List Request

/-- FREE VALUE: which waiting request starts, at the k-th draw (R185 "any one waiting request may start"; log 5). -/
opaque Config.grant : Nat → Nat

/-- FREE VALUE: what the lifecycle host does at the k-th draw (R217, R230, R236; log 6). -/
opaque Config.hostEvent : Nat → HostEvent

end Sys2Proof
end

