-- ==== Sys2Proof/WellFormed.lean ====
section
/-!
DEFINITION. Well-formedness: the named checks of a configuration (R11, U3) and the operand checks of each operation.
-/
namespace Sys2Proof

/-- How many of the W sub-bits of the symbol `y` are 1 (R11, R119). -/
def highCount (w y : Nat) : Nat := ((List.range w).filter fun t => y.testBit t).length

/-- The symbol `y` is a run of at least one 1 followed, in time, by a run of at least one 0: for some `h` with
`1 <= h < W` its upper `h` sub-bits are 1 and the others 0 (R119). -/
def highThenLow (w y : Nat) : Bool :=
  (List.range w).any fun h => decide (1 ≤ h) && (List.range w).all fun t => y.testBit t == decide (w - h ≤ t)

/-- `W >= 1` (R8, R11). -/
def Params.wfWidth (p : Params) : Bool := decide (1 ≤ p.w)

/-- `SYM0 < 2^W` (R11). -/
def Params.wfSym0 (p : Params) : Bool := decide (p.sym0 < 2 ^ p.w)

/-- `SYM1 < 2^W` (R11). -/
def Params.wfSym1 (p : Params) : Bool := decide (p.sym1 < 2 ^ p.w)

/-- `SYM0 != SYM1` (R11). -/
def Params.wfDistinct (p : Params) : Bool := decide (p.sym0 ≠ p.sym1)

/-- The 1-symbol is high longer than the 0-symbol (R11, R119). -/
def Params.wfHighTime (p : Params) : Bool := decide (highCount p.w p.sym0 < highCount p.w p.sym1)

/-- The reset hold is not truncated: `8 * TRAILER_BYTES >= RESET_BITS mod 8` (R11, R105). -/
def Params.wfResetHold (p : Params) : Bool := decide (p.resetBits % 8 ≤ 8 * p.trailerBytes)

/-- Each symbol has the run shape that R119 asks for. It matters to the LED and not to the encoder, so it is a check
beside those of R11 and no operation enforces it (log 15). -/
def Params.wfRunShape (p : Params) : Bool := highThenLow p.w p.sym0 && highThenLow p.w p.sym1

/-- Every check of R11 on the parameters; the two on the LED count and the buffer length are `Cfg.wfLedCount` and
`Cfg.wfSize`. -/
def Params.wf (p : Params) : Bool :=
  p.wfWidth && p.wfSym0 && p.wfSym1 && p.wfDistinct && p.wfHighTime && p.wfResetHold

/-- A channel index that the 20-bit field `chan` of the command word holds (R86, R90). -/
def wfChan (c : Nat) : Bool := decide (c < 2 ^ 20)

/-- Operand checks. An index of 2^20 or more is legal in the abstract form of SET and GET and has no word (C9);
BUFSIZE takes a positive count (R100); CONSTRUCT takes a configuration that meets R11, of at least one LED (an absent
count is 1, R231), and its buffer then has room by R100. -/
def Instr.wf (i : Instr) : Bool :=
  match i with
  | .sym0 => true
  | .sym1 => true
  | .set c _ => wfChan c
  | .get c => wfChan c
  | .bufsize n => decide (0 < n)
  | .encode _ => true
  | .render => true
  | .decode _ _ => true
  | .transmit => true
  | .construct p led _ => p.wf && decide (1 ≤ led.getD 1)
  | .teardown => true

end Sys2Proof
end

