-- ==== Sys2Proof/Decode.lean ====
section
/-!
DEFINITION. The two decoders, total on every bit pattern and rejecting by name: the 32-bit command word (R86 to R90)
and the W-bit symbol (R80 to R82, R121); then the encoders written from the same tables.
The seven internal rows of the opcode table have no encoding and are ignored here (R94).
-/
namespace Sys2Proof

/-- Why a bit pattern is no instruction. -/
inductive DecodeError where
  /-- `op` is neither 1 nor 2 (R89). -/
  | reservedOp
  /-- `op` is 2 (GET) and `val` is not 0 (R89). -/
  | reservedVal
  /-- A symbol pattern that is neither `SYM0` nor `SYM1` (R82). -/
  | reservedSymbol
deriving DecidableEq, Repr

/-- Field `op`, bits 31:28 (R86). -/
def opField (w : Word) : BitVec 4 := w.extractLsb' 28 4

/-- Field `chan`, bits 27:8 (R86). -/
def chanField (w : Word) : BitVec 20 := w.extractLsb' 8 20

/-- Field `val`, bits 7:0 (R86). -/
def valField (w : Word) : Byte := w.extractLsb' 0 8

/-- Decode a command word (R86 to R90). `chan` is zero-extended (R90). -/
def decodeCommand (w : Word) : Except DecodeError Instr :=
  if opField w = 0x1#4 then .ok (.set (chanField w).toNat (valField w))
  else if opField w = 0x2#4 then
    if valField w = 0#8 then .ok (.get (chanField w).toNat) else .error .reservedVal
  else .error .reservedOp

/-- `SYMDECODE(y)`: the logical bit of a symbol, `none` for invalid (R121). -/
def symDecode (p : Params) (y : Nat) : Option Bool :=
  if y = p.sym0 then some false else if y = p.sym1 then some true else none

/-- Read one symbol pattern as the row of the opcode table it is (R80 to R82). -/
def decodeSymbol (p : Params) (y : Nat) : Except DecodeError Instr :=
  match symDecode p y with
  | some false => .ok .sym0
  | some true => .ok .sym1
  | none => .error .reservedSymbol

/-- Decode what stands at the input port. -/
def decodeFetch (p : Params) : Fetch → Except DecodeError Instr
  | .command w => decodeCommand w
  | .symbol y => decodeSymbol p y

/-- The command that a request asks for (R86). -/
def decodeRequest : Request → Except DecodeError Instr
  | .word w => decodeCommand w
  | .set c v => .ok (.set c v)
  | .get c => .ok (.get c)

/-- What the port holds for the table word `w` of `nbits` bits: a word of at most one byte is a symbol (the table's two
symbol rows have W = 3 bits), a longer one a command word, whose bits above `nbits` are 0 (log 12). -/
def fetchOfTableWord (nbits w : Nat) : Fetch :=
  if nbits ≤ 8 then .symbol (w % 2 ^ nbits) else .command (BitVec.ofNat 32 (w % 2 ^ nbits))

/-- The instruction read from a word numbered as the opcode table numbers it, at the reference symbols. -/
def decodeTableWord (nbits w : Nat) : Option Instr :=
  match decodeFetch Config.reference (fetchOfTableWord nbits w) with
  | .ok i => some i
  | .error _ => none

/-- Put a command word together from its three fields (R86). -/
def commandWord (op : BitVec 4) (c : Nat) (v : Byte) : Word := op ++ BitVec.ofNat 20 c ++ v

/-- The port's form of an instruction: the word of SET and GET (R87, R88), the pattern of a symbol (R80), and none
for the internal operations (R94). -/
def encode (p : Params) (i : Instr) : Option Fetch :=
  match i with
  | .sym0 => some (.symbol p.sym0)
  | .sym1 => some (.symbol p.sym1)
  | .set c v => some (.command (commandWord 0x1#4 c v))
  | .get c => some (.command (commandWord 0x2#4 c 0#8))
  | .bufsize _ => none
  | .encode _ => none
  | .render => none
  | .decode _ _ => none
  | .transmit => none
  | .construct _ _ _ => none
  | .teardown => none

end Sys2Proof
end

