-- ==== Sys2Proof/Machine/State.lean ====
section
/-!
DEFINITION. The state of one Device and of its interfaces (R20 to R36), the reasons a step can stop, and the state
after reset. Plain data.
-/
namespace Sys2Proof.Machine

/-- Why the machine stops with a fault. -/
inductive Fault where
  /-- Raised by SET, GET and RENDER in a state whose register file has not N registers or whose buffer is
  shorter than `N*W` bytes (R65, R147, D25: a construction-time defect). Safe: the machine stops, and no Device that
  CONSTRUCT made is in such a state. -/
  | badGeometry
deriving DecidableEq, Repr

/-- Why a step has no meaning. Each is safe: the model stops and claims nothing. -/
inductive Refusal where
  /-- Raised by an arm of `exec` whose instruction has no meaning yet. -/
  | notModelled (mnemonic : String)
  /-- Raised by every operation but CONSTRUCT in the Unconstructed state (R234, D18, U20). -/
  | notConstructed
  /-- Raised by CONSTRUCT on a live Device (R235: a different configuration means TEARDOWN first). -/
  | alreadyConstructed
  /-- Raised by CONSTRUCT on parameters that U3 refuses: W = 0, a symbol wider than W, or equal symbols (R11). -/
  | illFormedConfig
  /-- Raised by TEARDOWN unless FSM is Idle and PENDING is empty (R236, D18, U13). -/
  | teardownBusy
  /-- Raised by RENDER outside Rendering and by TRANSMIT outside Transmitting (R130, R182, R219). -/
  | outsideTenure
  /-- Raised by BUFSIZE of 0 channels (R100, U17). -/
  | zeroChannels
  /-- Raised by DECODE of a buffer of fewer than `n*W` bytes, outside its contract (R143). -/
  | shortBuffer
  /-- Raised by `step` when the pattern at the port is a reserved symbol (R82, U9). -/
  | reservedSymbol
deriving DecidableEq, Repr

/-- The output buffer as memory: (address, byte) pairs (R50). -/
abbrev Memory := List Host.Cell

/-- What an address that is not listed reads as: the buffer is zeroed at construction (R28, R230 step 8, D5; log 2). -/
def unlistedByte : Byte := 0#8

/-- The canonical form: addresses strictly rising, and no entry that an unlisted address would read as. -/
abbrev memWf (m : Memory) : Prop :=
  m.Pairwise (fun x y => x.1 < y.1) ∧ ∀ e ∈ m, e.2 ≠ unlistedByte

/-- The coordinator's state (R26). -/
inductive Fsm where
  | unconstructed
  | idle
  | rendering
  | transmitting
deriving DecidableEq, Repr

/-- The one lock (R27). -/
inductive Lock where
  | free
  | held
deriving DecidableEq, Repr

/-- `CFG`, the constants that CONSTRUCT fixes (R25). -/
structure Cfg where
  /-- `CFG.LED_COUNT`. -/
  ledCount : Nat
  /-- `CFG.N`, the channel count. -/
  n : Nat
  /-- `CFG.W`, `CFG.SYM0`, `CFG.SYM1`, `CFG.RESET_BITS`, `CFG.TRAILER_BYTES`, and `SIZE_MAX`. -/
  params : Params
  /-- `CFG.S`, the buffer length in bytes. -/
  s : Nat
  /-- `CFG.COLOR_ORDER`. -/
  colorOrder : List Char
deriving DecidableEq, Repr

/-- `RPOS`, the render sequencer position (R23). -/
structure RPos where
  /-- Channel being encoded. -/
  ch : Nat
  /-- Logical bit of `BR[CH]` being encoded. -/
  lb : Fin 8
  /-- Sub-bit of the current symbol being placed. -/
  sb : Nat
  /-- Byte cursor. -/
  byteCur : Nat
  /-- Bit cursor. -/
  bitCur : Fin 8
deriving DecidableEq, Repr

/-- One entry of `WIRE`: a frame handed to the transmitter and its result (R31, R182). -/
structure WireEntry where
  frame : List Byte
  result : TxResult
deriving DecidableEq, Repr

/-- A response word with the command it answers (R91, R188). -/
structure Answer where
  request : Request
  rsp : Rsp
deriving DecidableEq, Repr

/-- The result of a CONSTRUCT (R200): its init status, with the sub-code of a `ConfigurationError`. -/
inductive InitStatus where
  | ok
  | configurationError (sub : Nat)
  | allocationError
deriving DecidableEq, Repr

/-- The result an internal function returns to its caller (R15). -/
inductive FnResult where
  | none
  /-- BUFSIZE: a length in bytes. -/
  | size (n : Nat)
  /-- ENCODE, SYM0, SYM1: a symbol. -/
  | symbol (y : Nat)
  /-- DECODE: the bytes, or `none` for invalid. -/
  | decoded (r : Option (List Byte))
  /-- TRANSMIT: the transmitter's answer. -/
  | tx (r : TxResult)
deriving DecidableEq, Repr

/-- The machine (R20), its interfaces (R17), and the model's draw counter. -/
structure State where
  /-- `BR`, the brightness registers (R21). -/
  br : List Byte
  /-- `BUF`, the output buffer (R28). -/
  buf : Memory
  /-- `RPOS` (R23). -/
  rpos : RPos
  /-- `FSM` (R26). -/
  fsm : Fsm
  /-- `LOCK` (R27). -/
  lock : Lock
  /-- `CFG` (R25). -/
  cfg : Cfg
  /-- `ROLE` (R29, R165). -/
  role : List Role
  /-- `NAMEOF` (R29, R169). -/
  nameOf : List String
  /-- `PENDING`, a multiset: the order of the list means nothing, since the grant is free (R31, R185; log 17). -/
  pending : List Request
  /-- `WIRE`, oldest first (R31). -/
  wire : List WireEntry
  /-- The SET that holds the lock (R26, R178; log 9). -/
  tenure : Option Request
  /-- `RSP`: the responses given, oldest first (R91, R188; log 9). -/
  rsp : List Answer
  /-- The result of the last CONSTRUCT (R200, R230). -/
  initStatus : InitStatus
  /-- The result the last internal function returned (R15; log 9). -/
  out : FnResult
  /-- `CMD`: what stands at the input port, taken by the next step (R17, R86; log 11). -/
  port : Option Fetch
  /-- The model's own: how many free inputs have been drawn (log 4). -/
  draws : Nat
deriving DecidableEq, Repr

/-- `RPOS` at the start of every pass: "(0, 7, W-1, 0, 7)" (R23, R134). -/
def startOfPass (w : Nat) : RPos := { ch := 0, lb := 7, sb := w - 1, byteCur := 0, bitCur := 7 }

/-- `CFG` after `CONSTRUCT({})` at the reference parameters: one LED, "GRB" (R231; log 1). -/
def Cfg.reference : Cfg :=
  { ledCount := 1, n := 3, params := Config.reference, s := 29, colorOrder := Config.defaultOrder }

/-- The machine right after reset: a successful `CONSTRUCT({})` at the reference parameters (R35, R230, R232). -/
def State.reset : State :=
  { br := [0#8, 0#8, 0#8]
    buf := []
    rpos := startOfPass 3
    fsm := .idle
    lock := .free
    cfg := Cfg.reference
    role := [.green, .red, .blue]
    nameOf := [Config.name 0 .green, Config.name 0 .red, Config.name 0 .blue]
    pending := []
    wire := []
    tenure := none
    rsp := []
    initStatus := .ok
    out := .none
    port := none
    draws := 0 }

end Sys2Proof.Machine
end

