-- ==== Sys2Proof/Machine/Operands.lean ====
section
/-!
DEFINITION. Operand forms: the channel index (R90, R163), the bits of a byte and of a symbol (R13, R120), the optional
operands of CONSTRUCT (R164 to R167, R231), and the sizes a Device must have (R65, R250).
-/
namespace Sys2Proof.Machine

/-- A channel index is valid when it is below N (R163). -/
def validIndex (s : State) (c : Nat) : Bool := decide (c < s.cfg.n)

/-- Bit `j` of a brightness byte (R13, R132). -/
def logicalBit (v : Byte) (j : Nat) : Bool := v.getLsbD j

/-- Sub-bit `t` of a symbol (R120). -/
def subBit (y t : Nat) : Bool := y.testBit t

/-- A symbol's levels in time order, true for line high: sub-bits W-1 down to 0 (R80, R120). -/
def lineLevels (w y : Nat) : List Bool := (List.range w).map fun u => subBit y (w - 1 - u)

/-- Bus-bit position `p` of a buffer: bit `7 - (p mod 8)` of byte `p div 8` (R13, R51). -/
def busBit (buf : List Byte) (p : Nat) : Bool := (buf.getD (p / 8) 0#8).getLsbD (7 - p % 8)

/-- `led_number(i) = i div COLORS_PER_LED` (R22). -/
def ledNumber (i : Nat) : Nat := i / Config.colorsPerLed

/-- The role a colour-order letter names; only R, G and B are letters of the alphabet (R164, R165, D15). -/
def roleOfLetter (c : Char) : Option Role :=
  if c = 'R' then some .red else if c = 'G' then some .green else if c = 'B' then some .blue else none

/-- `led_count`, 1 if absent (R231). -/
def ledCountOf (led : Option Int) : Int := led.getD 1

/-- `color_order`, "GRB" if absent or empty (R164, R166, R231). -/
def colorOrderOf (order : Option (List Char)) : List Char :=
  match order with
  | none => Config.defaultOrder
  | some [] => Config.defaultOrder
  | some (c :: cs) => c :: cs

/-- Every letter of the order is in the alphabet (R167). -/
def lettersKnown (order : List Char) : Bool := order.all fun c => (roleOfLetter c).isSome

/-- `ROLE[i] = role_of(COLOR_ORDER[i mod L])` (R165). -/
def roleAt (order : List Char) (i : Nat) : Role :=
  (roleOfLetter (order.getD (i % order.length) 'G')).getD .green

/-- The parameters that U3 does not refuse: `W >= 1`, both symbols in W bits, and distinct (R11). -/
def encodable (p : Params) : Bool := p.wfWidth && p.wfSym0 && p.wfSym1 && p.wfDistinct

/-- A length above `SIZE_MAX` cannot be allocated (R205). -/
def tooLarge (p : Params) (k : Nat) : Bool :=
  match p.sizeMax with
  | none => false
  | some m => decide (m < k)

/-- `LED_COUNT >= 1` (R11). -/
def Cfg.wfLedCount (c : Cfg) : Bool := decide (1 ≤ c.ledCount)

/-- `S >= N * W` (R11). -/
def Cfg.wfSize (c : Cfg) : Bool := decide (c.n * c.params.w ≤ c.s)

/-- Every constraint of R11 on a configuration. -/
def Cfg.wf (c : Cfg) : Bool := c.wfLedCount && c.wfSize && c.params.wf

/-- LENGTH_OK of R250 and the bound of R139: N registers, and room for `N*W` bytes in the buffer (R65). -/
def deviceOk (s : State) : Bool :=
  decide (s.br.length = s.cfg.n) && s.cfg.wfSize

end Sys2Proof.Machine
end

