-- ==== Sys2Proof/Machine/Flags.lean ====
section
/-!
DEFINITION. The hardware has no flags (R24). The only status is the response word of a command (R91, R200) and the
init status of a CONSTRUCT (R200); their codes are computed here.
-/
namespace Sys2Proof.Machine

/-- Status `OK` (R91). -/
def statusOk : BitVec 4 := 0#4

/-- Status `BUS_ERROR` (R91, R201). -/
def statusBusError : BitVec 4 := 1#4

/-- Status `BAD_INDEX` (R91, R202). -/
def statusBadIndex : BitVec 4 := 2#4

/-- Status `BAD_COMMAND` (R91, R203). -/
def statusBadCommand : BitVec 4 := 3#4

/-- The response word: bits 15:12 zero, `status` in 11:8, `data` in 7:0 (R91). -/
def rspWord (status : BitVec 4) (data : Byte) : Rsp := 0#4 ++ status ++ data

/-- The response of a SET from the transmitter's answer (R175 step 8). -/
def setRsp (r : TxResult) : Rsp :=
  match r with
  | .ok => rspWord statusOk 0#8
  | .err e => rspWord statusBusError e

/-- The init status code and the sub-code of a CONSTRUCT result (R200, D14). -/
def initCode (i : InitStatus) : Nat × Nat :=
  match i with
  | .ok => (0, 0)
  | .configurationError sub => (1, sub)
  | .allocationError => (2, 0)

end Sys2Proof.Machine
end

