-- ==== Sys2Proof/Machine/Ops.lean ====
section
/-!
DEFINITION. The named operations over the buffer, the registers, the lock, the waiting requests and the interfaces.
There are no traps, vectors or handlers (R210): the one way an error is delivered is `answer`, and for CONSTRUCT
`constructFails`; there is no return from a trap (R211), the coordinator is simply in Idle again.
-/
namespace Sys2Proof.Machine

/-! The buffer as memory -/

/-- `MemRead(a, 1)` (R14): an address that is not listed reads as zero (log 2). -/
def memRead (m : Memory) (a : Nat) : Byte :=
  match m with
  | [] => unlistedByte
  | (b, v) :: rest => if a = b then v else memRead rest a

/-- `MemWrite(a, 1, v)` (R14), keeping the canonical form: writing the unlisted value removes the entry. -/
def memWrite (m : Memory) (a : Nat) (v : Byte) : Memory :=
  match m with
  | [] => if v = unlistedByte then [] else [(a, v)]
  | (b, x) :: rest =>
    if a < b then (if v = unlistedByte then (b, x) :: rest else (a, v) :: (b, x) :: rest)
    else if a = b then (if v = unlistedByte then rest else (a, v) :: rest)
    else (b, x) :: memWrite rest a v

/-- The byte of `BitWrite`: clear bit `k`, then set it if `b` is 1 (R14, R133). -/
def setBit (x : Byte) (k : Fin 8) (b : Bool) : Byte :=
  (x &&& ~~~(1#8 <<< k.val)) ||| ((if b then 1#8 else 0#8) <<< k.val)

/-- `BitWrite(a, k, b)` (R14, R56): read, change at most bit `k`, write back. -/
def memBitWrite (m : Memory) (a : Nat) (k : Fin 8) (b : Bool) : Memory :=
  memWrite m a (setBit (memRead m a) k b)

/-- `BUF[0 .. S-1]`, all S bytes in address order (R66, R182). -/
def snapshot (s : State) : List Byte := (List.range s.cfg.s).map (memRead s.buf)

/-! The brightness registers -/

/-- `BR[c]` (R14). -/
def readBr (s : State) (c : Nat) : Byte := s.br.getD c 0#8

/-- `BR[c] <- v`: exactly one register changes (R14, R162). -/
def writeBr (s : State) (c : Nat) (v : Byte) : State := { s with br := s.br.set c v }

/-! Responses and results -/

/-- The response to one command, success or error, delivered to the requester and kept nowhere else (R91, R210). -/
def answer (s : State) (q : Request) (w : Rsp) : State := { s with rsp := s.rsp ++ [⟨q, w⟩] }

/-- A function's result, returned to its caller (R15). -/
def returns (s : State) (r : FnResult) : State := { s with out := r }

/-- A failed CONSTRUCT: the error is its result, nothing is created, FSM stays Unconstructed (R204, R205, R210). -/
def constructFails (s : State) (e : InitStatus) : State := { s with initStatus := e }

/-! The lock and the coordinator's transitions (R176) -/

/-- R175 steps 2 and 3, Idle to Rendering: the lock is taken for this SET and its register written (R177, R162). -/
def beginTenure (s : State) (c : Nat) (v : Byte) : State :=
  writeBr { s with lock := .held, fsm := .rendering, tenure := some (.set c v) } c v

/-- R175 step 5, Rendering to Transmitting. -/
def renderEnds (s : State) : State := { s with fsm := .transmitting }

/-- R175 step 6, `TRANSMIT()` (R182): the snapshot goes onto WIRE with the transmitter's answer `r`, which is returned
to the caller. -/
def transmitFrame (s : State) (r : TxResult) : State :=
  returns { s with wire := s.wire ++ [⟨snapshot s, r⟩], draws := s.draws + 1 } (.tx r)

/-- R175 steps 7 and 8, Transmitting to Idle: the lock is released whatever the answer (R178), and the caller gets
`OK` or the transmitter's error (R179). -/
def endTenure (s : State) (r : TxResult) : State :=
  let s' := { s with lock := .free, fsm := .idle, tenure := none }
  match s.tenure with
  | some q => answer s' q (setRsp r)
  | none => s'

/-! Waiting requests and free inputs -/

/-- A command that cannot start waits in PENDING (R177, R185, R161). -/
def waits (s : State) (q : Request) : State := { s with pending := s.pending ++ [q] }

/-- The transmitter's answer at the next draw (R182). -/
def nextTxResult (s : State) : TxResult := Config.txResult s.draws

/-- Requesters issue the commands `qs`, any number at any time (R185, R217): they join PENDING. -/
def arrivalsOf (qs : List Request) (s : State) : State :=
  { s with pending := s.pending ++ qs, draws := s.draws + 1 }

/-- What requesters issue is a free input (log 5). -/
def arrivals (s : State) : State := arrivalsOf (Config.issued s.draws) s

/-- Which waiting request the choice `g` starts; every one of them is the one of some `g` (R185). -/
def grantIndex (g : Nat) (s : State) : Nat := g % s.pending.length

/-- The granted request leaves PENDING. -/
def takeGranted (g : Nat) (s : State) : State :=
  { s with pending := s.pending.eraseIdx (grantIndex g s), draws := s.draws + 1 }

/-- The free choice of one step (log 5): what arrives, and, one draw later, who starts. -/
def drawn (s : State) : Choice := { issued := Config.issued s.draws, granted := Config.grant (s.draws + 1) }

/-- The lifecycle host's free input is drawn (R217). -/
def hostDraw (s : State) : State := { s with draws := s.draws + 1 }

/-! The premises of an operation -/

/-- Nothing but CONSTRUCT has a meaning before construction and after teardown (R234, D18, U20). -/
def whenConstructed (s : State) (k : Host.Outcome State Fault Refusal) : Host.Outcome State Fault Refusal :=
  if s.fsm = .unconstructed then .refused .notConstructed else k

/-- A register file or a buffer of the wrong size has no meaning (R65, R147, D25). -/
def whenDeviceOk (s : State) (k : Host.Outcome State Fault Refusal) : Host.Outcome State Fault Refusal :=
  if deviceOk s then k else .fault .badGeometry

/-- A reserved command word: `BAD_COMMAND`, no state but the response changes (R89, R203). -/
def badCommand (q : Request) (s : State) : Host.Outcome State Fault Refusal :=
  whenConstructed s (.next (answer s q (rspWord statusBadCommand 0#8)))

end Sys2Proof.Machine
end

