-- ==== Sys2Proof/Machine/BitEncoder.lean ====
section
/-!
DEFINITION. The Bit Encoder: ENCODE, SYM0, SYM1 (R115 to R123).
-/
namespace Sys2Proof.Machine

/-- `ENCODE(b)`: SYM1 if b is 1, else SYM0 (R115). -/
def encodeBit (p : Params) (b : Bool) : Nat := if b then p.sym1 else p.sym0

/-- ENCODE(b) (R115): returns the symbol of one logical bit; no other state. -/
def execEncode (b : Bool) (s : State) : Host.Outcome State Fault Refusal :=
  whenConstructed s (.next (returns s (.symbol (encodeBit s.cfg.params b))))

/-- SYM0 (R116): the symbol that ENCODE(0) produces, and nothing else. -/
def execSym0 (s : State) : Host.Outcome State Fault Refusal :=
  whenConstructed s (.next (returns s (.symbol (encodeBit s.cfg.params false))))

/-- SYM1 (R117): the symbol that ENCODE(1) produces, and nothing else. -/
def execSym1 (s : State) : Host.Outcome State Fault Refusal :=
  whenConstructed s (.next (returns s (.symbol (encodeBit s.cfg.params true))))

end Sys2Proof.Machine
end

