-- ==== Sys2Proof/Machine/Renderer.lean ====
section
/-!
DEFINITION. The Frame Renderer: RENDER as the cursor walk (R130 to R134), FRAME as its closed form (R137), DECODE
(R143).
-/
namespace Sys2Proof.Machine

/-- What a render pass works on: the buffer and the position. -/
structure Pass where
  buf : Memory
  rpos : RPos
deriving DecidableEq, Repr

/-- `p(k, j, t)`, the bus-bit position of sub-bit `t` of the symbol of bit `j` of channel `k` (R136). -/
def bitPosition (w k j t : Nat) : Nat := w * (8 * k + (7 - j)) + (w - 1 - t)

/-- The loop invariant of the walk: just before the q-th bit write the cursors stand at bus-bit position `q` (R136). -/
def CursorAt (r : RPos) (q : Nat) : Prop := r.byteCur = q / 8 ∧ r.bitCur.val = 7 - q % 8

/-- The cursor step: the bit cursor is decremented, or reloaded with 7 while the byte cursor advances (R133). -/
def cursorStep (r : RPos) : RPos :=
  if r.bitCur = 0 then { r with byteCur := r.byteCur + 1, bitCur := 7 } else { r with bitCur := r.bitCur - 1 }

/-- One step of the walk: clear the bit at the cursors, set it if `b` is 1, advance (R133). -/
def putBit (p : Pass) (b : Bool) : Pass :=
  { buf := memBitWrite p.buf p.rpos.byteCur p.rpos.bitCur b, rpos := cursorStep p.rpos }

/-- The inner loop, sub-bits `t-1` down to 0 of the symbol `y` (R120, R130). -/
def putSymbol (y : Nat) (t : Nat) (p : Pass) : Pass :=
  match t with
  | 0 => p
  | t + 1 => putSymbol y t (putBit { p with rpos := { p.rpos with sb := t } } (subBit y t))

/-- The middle loop, logical bits `j-1` down to 0 of the byte `v` (R132). -/
def putByte (c : Params) (v : Byte) (j : Nat) (p : Pass) : Pass :=
  match j with
  | 0 => p
  | j + 1 =>
    putByte c v j
      (putSymbol (encodeBit c (logicalBit v j)) c.w { p with rpos := { p.rpos with lb := Fin.ofNat 8 j } })

/-- The outer loop over the registers in index order, each read once (R131); `k` is the index of the first. -/
def putChannels (c : Params) (k : Nat) (br : List Byte) (p : Pass) : Pass :=
  match br with
  | [] => p
  | v :: rest => putChannels c (k + 1) rest (putByte c v 8 { p with rpos := { p.rpos with ch := k } })

/-- `RENDER()`: one pass from the initial cursors (R130, R134). -/
def renderPass (s : State) : State :=
  let p := putChannels s.cfg.params 0 s.br { buf := s.buf, rpos := startOfPass s.cfg.params.w }
  { s with buf := p.buf, rpos := p.rpos }

/-- RENDER (R130): started only by SET, so it runs only in Rendering (R219). -/
def execRender (s : State) : Host.Outcome State Fault Refusal :=
  whenConstructed s
    (if s.fsm = .rendering then whenDeviceOk s (.next (renderPass s)) else .refused .outsideTenure)

/-- The bit of FRAME at bus-bit position `p` (R137). -/
def frameBit (c : Cfg) (br : List Byte) (p : Nat) : Bool :=
  if p < 8 * c.n * c.params.w then
    let s := p / c.params.w
    let u := p % c.params.w
    subBit (encodeBit c.params (logicalBit (br.getD (s / 8) 0#8) (7 - s % 8))) (c.params.w - 1 - u)
  else false

/-- Eight bus-bits as a byte, the first one in bit 7 (R51). -/
def packByte (f : Nat → Bool) : Byte :=
  (List.range 8).foldl (fun acc i => (acc <<< 1) ||| (if f i then 1#8 else 0#8)) 0#8

/-- `FRAME(br)`, the S-byte frame of the brightness values `br` (R137). -/
def frame (c : Cfg) (br : List Byte) : List Byte :=
  (List.range c.s).map fun a => packByte fun i => frameBit c br (8 * a + i)

/-- The W-bit value whose bit `W-1-u` is the bus-bit at position `q + u` (R143): its first `t` sub-bits. -/
def symbolAt (buf : List Byte) (q t : Nat) : Nat :=
  match t with
  | 0 => 0
  | t + 1 => 2 * symbolAt buf q t + (busBit buf (q + t)).toNat

/-- The first `i` slots of channel `k`, most significant bit first; `none` for invalid (R143). -/
def decodeSlots (p : Params) (buf : List Byte) (k i : Nat) : Option Byte :=
  match i with
  | 0 => some 0#8
  | i + 1 =>
    match decodeSlots p buf k i, symDecode p (symbolAt buf (p.w * (8 * k + i)) p.w) with
    | some v, some d => some ((v <<< 1) ||| (if d then 1#8 else 0#8))
    | _, _ => none

/-- `DECODE(buf, n)` from channel `k` on, `m` channels (R143). -/
def decodeFrom (p : Params) (buf : List Byte) (k m : Nat) : Option (List Byte) :=
  match m with
  | 0 => some []
  | m + 1 =>
    match decodeSlots p buf k 8, decodeFrom p buf (k + 1) m with
    | some v, some vs => some (v :: vs)
    | _, _ => none

/-- `DECODE(buf, n)` (R143). -/
def decodeFrame (p : Params) (buf : List Byte) (n : Nat) : Option (List Byte) := decodeFrom p buf 0 n

/-- DECODE (R143): returns the bytes or invalid; a buffer of fewer than `n*W` bytes is outside its contract. -/
def execDecode (buf : List Byte) (n : Nat) (s : State) : Host.Outcome State Fault Refusal :=
  whenConstructed s
    (if buf.length < n * s.cfg.params.w then .refused .shortBuffer
     else .next (returns s (.decoded (decodeFrame s.cfg.params buf n))))

end Sys2Proof.Machine
end

