-- ==== Sys2Proof/Machine/Coordinator.lean ====
section
/-!
DEFINITION. The Update Coordinator: SET and TRANSMIT (R175 to R189).
-/
namespace Sys2Proof.Machine

/-- R175 steps 2 to 8 for the transmitter's answer `r`: one tenure of the lock, indivisible to every other SET and
GET (R58), passing through Rendering and Transmitting (R176). -/
def runTenure (s : State) (c : Nat) (v : Byte) (r : TxResult) : State :=
  endTenure (transmitFrame (renderEnds (renderPass (beginTenure s c v))) r) r

/-- SET c, v (R175): `BAD_INDEX` before anything else (step 1); a SET that finds the lock held waits (step 2, R177);
else the whole tenure, with the transmitter's answer a free value (R182). -/
def execSet (c : Nat) (v : Byte) (s : State) : Host.Outcome State Fault Refusal :=
  whenConstructed s
    (if validIndex s c then
      if s.lock = .free then whenDeviceOk s (.next (runTenure s c v (nextTxResult s)))
      else .next (waits s (.set c v))
    else .next (answer s (.set c v) (rspWord statusBadIndex 0#8)))

/-- TRANSMIT (R182): made only inside a SET, in Transmitting; the answer is a free value. -/
def execTransmit (s : State) : Host.Outcome State Fault Refusal :=
  whenConstructed s
    (if s.fsm = .transmitting then
      .next (transmitFrame s (nextTxResult s))
    else .refused .outsideTenure)

end Sys2Proof.Machine
end

