-- ==== Sys2Proof/Machine/Geometry.lean ====
section
/-!
DEFINITION. The Geometry Calculator: BUFSIZE (R100 to R108).
-/
namespace Sys2Proof.Machine

/-- `((n * 8 * W + RESET_BITS) div 8) + TRAILER_BYTES` (R100), on unbounded naturals (R107). -/
def bufSize (p : Params) (n : Nat) : Nat := (n * 8 * p.w + p.resetBits) / 8 + p.trailerBytes

/-- BUFSIZE(n) (R100): returns the length for `n` channels at the Device's constants; `n = 0` is outside its contract
(U17). -/
def execBufsize (n : Nat) (s : State) : Host.Outcome State Fault Refusal :=
  whenConstructed s (if n = 0 then .refused .zeroChannels else .next (returns s (.size (bufSize s.cfg.params n))))

end Sys2Proof.Machine
end

