-- ==== Sys2Proof/Machine/Lifecycle.lean ====
section
/-!
DEFINITION. Construction and teardown (R230 to R236).
-/
namespace Sys2Proof.Machine

/-- `CFG` of a Device of `leds` LEDs (R230 step 5, R25). -/
def cfgOf (p : Params) (leds : Nat) (order : List Char) : Cfg :=
  { ledCount := leds
    n := leds * Config.colorsPerLed
    params := p
    s := bufSize p (leds * Config.colorsPerLed)
    colorOrder := order }

/-- R230 steps 7 to 9: every register 0, roles and names assigned, the buffer zeroed, the lock free, Idle, PENDING and
WIRE empty; nothing is rendered and nothing transmitted (R233). -/
def constructed (s : State) (p : Params) (leds : Nat) (order : List Char) : State :=
  { s with
    br := List.replicate (leds * Config.colorsPerLed) 0#8
    buf := []
    rpos := startOfPass p.w
    fsm := .idle
    lock := .free
    cfg := cfgOf p leds order
    role := (List.range (leds * Config.colorsPerLed)).map (roleAt order)
    nameOf := (List.range (leds * Config.colorsPerLed)).map fun i => Config.name (ledNumber i) (roleAt order i)
    pending := []
    wire := []
    tenure := none
    initStatus := .ok }

/-- CONSTRUCT(cfg) (R230): the checks in the order of R209; parameters that U3 refuses are refused where BUFSIZE would
first use them (step 5). -/
def execConstruct (p : Params) (led : Option Int) (order : Option (List Char)) (s : State) :
    Host.Outcome State Fault Refusal :=
  if s.fsm = .unconstructed then
    if ledCountOf led ≤ 0 then .next (constructFails s (.configurationError 1))
    else if lettersKnown (colorOrderOf order) = false then .next (constructFails s (.configurationError 2))
    else if encodable p = false then .refused .illFormedConfig
    else if tooLarge p (cfgOf p (ledCountOf led).toNat (colorOrderOf order)).n
        || tooLarge p (cfgOf p (ledCountOf led).toNat (colorOrderOf order)).s then
      .next (constructFails s .allocationError)
    else .next (constructed s p (ledCountOf led).toNat (colorOrderOf order))
  else .refused .alreadyConstructed

/-- The configuration of no Device. -/
def noCfg : Cfg :=
  { ledCount := 0
    n := 0
    params := { w := 0, sym0 := 0, sym1 := 0, resetBits := 0, trailerBytes := 0, sizeMax := none }
    s := 0
    colorOrder := [] }

/-- All state of R20 ceases to exist (R236). The responses already given, the last init status and the interfaces are
not part of it. -/
def removed (s : State) : State :=
  { s with
    br := []
    buf := []
    rpos := startOfPass 0
    fsm := .unconstructed
    lock := .free
    cfg := noCfg
    role := []
    nameOf := []
    pending := []
    wire := []
    tenure := none }

/-- TEARDOWN (R236): only from Idle with PENDING empty (D18); nothing is transmitted. -/
def execTeardown (s : State) : Host.Outcome State Fault Refusal :=
  whenConstructed s
    (if s.fsm = .idle ∧ s.pending = [] then .next (removed s) else .refused .teardownBusy)

end Sys2Proof.Machine
end

