-- ==== Sys2Proof/Machine/Registry.lean ====
section
/-!
DEFINITION. The Channel Registry: GET (R160 to R163).
-/
namespace Sys2Proof.Machine

/-- GET c (R161): waits while FSM is not Idle; then `BAD_INDEX` for an invalid index (R202), else `OK` with the value
of the register. No other state. -/
def execGet (c : Nat) (s : State) : Host.Outcome State Fault Refusal :=
  whenConstructed s
    (if s.fsm = .idle then
      if validIndex s c then whenDeviceOk s (.next (answer s (.get c) (rspWord statusOk (readBr s c))))
      else .next (answer s (.get c) (rspWord statusBadIndex 0#8))
    else .next (waits s (.get c)))

end Sys2Proof.Machine
end

