-- ==== Sys2Proof/Machine/Dispatch.lean ====
section
/-!
DEFINITION. One arm per operation, each a direct call of its meaning.
-/
namespace Sys2Proof.Machine

def exec (i : Instr) (s : State) : Host.Outcome State Fault Refusal :=
  match i with
  | .sym0 => Sys2Proof.Machine.execSym0 s
  | .sym1 => Sys2Proof.Machine.execSym1 s
  | .set c v => Sys2Proof.Machine.execSet c v s
  | .get c => Sys2Proof.Machine.execGet c s
  | .bufsize n => Sys2Proof.Machine.execBufsize n s
  | .encode b => Sys2Proof.Machine.execEncode b s
  | .render => Sys2Proof.Machine.execRender s
  | .decode buf n => Sys2Proof.Machine.execDecode buf n s
  | .transmit => Sys2Proof.Machine.execTransmit s
  | .construct p led order => Sys2Proof.Machine.execConstruct p led order s
  | .teardown => Sys2Proof.Machine.execTeardown s

end Sys2Proof.Machine
end

