-- ==== Sys2Proof/Machine/Sequencer.lean ====
section
/-!
DEFINITION. What one step does around `exec`: it takes the instruction at the port, or else makes one transition of the
coordinator (R176), the requesters and the host being free inputs (R185, R217).
-/
namespace Sys2Proof.Machine

/-- Run what stood at the port: the decoded instruction, `BAD_COMMAND` for a reserved word (R89), a refusal for a
reserved symbol (U9). `s` is the state with the port emptied. -/
def runPort (f : Fetch) (s : State) : Host.Outcome State Fault Refusal :=
  match decodeFetch s.cfg.params f with
  | .ok i => exec i s
  | .error _ =>
    match f with
    | .command w => badCommand (.word w) s
    | .symbol _ => whenConstructed s (.refused .reservedSymbol)

/-- A waiting SET may take the lock: the index is valid, the lock free, the Device sound (R175 steps 1 and 2). -/
def mayBegin (s : State) (c : Nat) : Bool :=
  validIndex s c && decide (s.lock = .free) && deviceOk s

/-- Start the granted request (R176, the rows from Idle): an accepted SET makes the transition to Rendering and the
next steps make the others; every other command is answered by its own meaning. -/
def serve (q : Request) (s : State) : Host.Outcome State Fault Refusal :=
  match decodeRequest q with
  | .ok (.set c v) => if mayBegin s c then .next (beginTenure s c v) else exec (.set c v) s
  | .ok i => exec i s
  | .error _ => badCommand q s

/-- The lifecycle host's move when nothing waits: in Unconstructed it may construct, in Idle it may tear down (R217);
any other event is no move. -/
def hostMove (s : State) : Host.Outcome State Fault Refusal :=
  match s.fsm, Config.hostEvent s.draws with
  | .unconstructed, .construct p led order => exec (.construct p led order) (hostDraw s)
  | .idle, .teardown => exec .teardown (hostDraw s)
  | _, _ => .next (hostDraw s)

/-- Idle: any one waiting request starts, the choice being `g` (R185); with none waiting the hardware does nothing
(R187). -/
def idleMove (g : Nat) (s : State) : Host.Outcome State Fault Refusal :=
  match s.pending[grantIndex g s]? with
  | some q => serve q (takeGranted g s)
  | none => hostMove s

/-- Rendering: the pass runs, and its end is the transition to Transmitting (R176). -/
def renderingMove (s : State) : Host.Outcome State Fault Refusal :=
  match exec .render s with
  | .next s' => .next (renderEnds s')
  | .fault r => .fault r
  | .refused r => .refused r

/-- Transmitting: the transmitter answers, and whatever it answers the tenure ends (R176, R178). -/
def transmittingMove (s : State) : Host.Outcome State Fault Refusal :=
  match exec .transmit s with
  | .next s' => .next (endTenure s' (nextTxResult s))
  | .fault r => .fault r
  | .refused r => .refused r

/-- The step relation (R185): one step in which requesters and the lock's grant choose `c`. Requests may arrive at every
step of a live Device (R217); none can before construction (R35). -/
def nextStepBy (c : Choice) (s : State) : Host.Outcome State Fault Refusal :=
  match s.port with
  | some f => runPort f { s with port := none }
  | none =>
    match s.fsm with
    | .unconstructed => hostMove s
    | .idle => idleMove c.granted (arrivalsOf c.issued s)
    | .rendering => renderingMove (arrivalsOf c.issued s)
    | .transmitting => transmittingMove (arrivalsOf c.issued s)

/-- One step, at the free choice. -/
def nextStep (s : State) : Host.Outcome State Fault Refusal := nextStepBy (drawn s) s

end Sys2Proof.Machine
end

