-- ==== Sys2Proof/Machine/Step.lean ====
section
/-!
DEFINITION. The step, and where it fetches: the input port. A command reaches the hardware at its command interface
(R17, R86), not from a memory (R63); `withFetchWord` puts one there (log 11).
-/
namespace Sys2Proof.Machine

/-- One step of the machine. -/
def step (s : State) : Host.Outcome State Fault Refusal := nextStep s

/-- `s` with the word `w` of `nbits` bits at the port, so that the next step runs it. -/
def State.withFetchWord (s : State) (nbits w : Nat) : State := { s with port := some (fetchOfTableWord nbits w) }

end Sys2Proof.Machine
end

