-- ==== Sys2Proof/Safety.lean ====
section
/-!
DEFINITION. What claims are stated in: the launch premises of a run (R250), its end (R188), and the invariants of the
state (R27, R33, R34, R36, R184).
-/
namespace Sys2Proof.Machine

/-- WELLFORMED_CFG (R250): the configuration meets every check of R11. -/
def WellformedCfg (s : State) : Prop := s.cfg.wf = true

/-- CONSTRUCTED (R250). -/
def Constructed (s : State) : Prop := s.fsm = .idle ∧ s.lock = .free ∧ s.pending = []

/-- RESET_REGION_ZERO (R250): every byte from `N*W` on reads 0. -/
def ResetRegionZero (s : State) : Prop := ∀ a, s.cfg.n * s.cfg.params.w ≤ a → memRead s.buf a = 0#8

/-- LENGTH_OK (R250): the buffer has `BUFSIZE(N)` bytes and BR has N registers. -/
def LengthOk (s : State) : Prop := s.cfg.s = bufSize s.cfg.params s.cfg.n ∧ s.br.length = s.cfg.n

/-- FRESH (R250): every register is 0 and WIRE is empty. -/
def Fresh (s : State) : Prop := (∀ v ∈ s.br, v = 0#8) ∧ s.wire = []

/-- The run is over (R188). -/
def RunOver (s : State) : Prop := s.pending = [] ∧ s.fsm = .idle ∧ s.lock = .free

/-- A configuration that CONSTRUCT accepts: its checks (R230 steps 2, 4 and 6) pass, and U3 does not refuse it. -/
structure Buildable (p : Params) (led : Option Int) (order : Option (List Char)) : Prop where
  leds : 0 < ledCountOf led
  letters : lettersKnown (colorOrderOf order) = true
  params : encodable p = true
  channelsFit : tooLarge p (3 * (ledCountOf led).toNat) = false
  bufferFits : tooLarge p (bufSize p (3 * (ledCountOf led).toNat)) = false

/-- `k` steps in which the open choices are `c 0`, `c 1`, ... (R185: a claim about a run must hold for every one). -/
def runBy (c : Nat → Choice) (k : Nat) (s : State) : Host.Outcome State Fault Refusal :=
  match k with
  | 0 => .next s
  | k + 1 =>
    match runBy c k s with
    | .next t => nextStepBy (c k) t
    | .fault r => .fault r
    | .refused r => .refused r

/-- The step with the choice `c` starts the request `q`: it is the one granted in Idle. -/
def Starts (c : Choice) (s : State) (q : Request) : Prop :=
  s.port = none ∧ s.fsm = .idle ∧
    (arrivalsOf c.issued s).pending[grantIndex c.granted (arrivalsOf c.issued s)]? = some q

/-- The weak fairness that R185, D12 and R247 assume: a request that waits is eventually started. A claim that waiting
ends takes it as a premise on the choices; the other liveness assumption, that every TRANSMIT returns, is in the step
itself (log 22). -/
def WeaklyFair (c : Nat → Choice) (s : State) : Prop :=
  ∀ k t q, runBy c k s = .next t → q ∈ t.pending →
    ∃ j u, k ≤ j ∧ runBy c j s = .next u ∧ Starts (c j) u q

/-- The command a request asks for, in the form in which it is answered: SET and GET abstractly, a reserved word as it
stands. -/
def commandOf (q : Request) : Request :=
  match decodeRequest q with
  | .ok (.set c v) => .set c v
  | .ok (.get c) => .get c
  | _ => q

/-- A sequence of operations, each started when the one before has ended (R59, R60). -/
def execAll (is : List Instr) (s : State) : Host.Outcome State Fault Refusal :=
  match is with
  | [] => .next s
  | i :: rest =>
    match exec i s with
    | .next s' => execAll rest s'
    | .fault r => .fault r
    | .refused r => .refused r

/-- The registers after the writes `cvs`, first to last (R162). -/
def writesOf (br : List Byte) (cvs : List (Nat × Byte)) : List Byte := cvs.foldl (fun b cv => b.set cv.1 cv.2) br

/-- The SET commands of the writes `cvs`. -/
def setsOf (cvs : List (Nat × Byte)) : List Instr := cvs.map fun cv => .set cv.1 cv.2

/-- A live Device in which a SET may start a tenure: the premises of R250 that a SET needs, and the buffer in its
canonical form. -/
structure Ready (s : State) : Prop where
  live : s.fsm = .idle
  free : s.lock = .free
  memory : memWf s.buf
  length : LengthOk s
  resetRegion : ResetRegionZero s

/-- The ranges of the position's fields (R23); the three-bit fields have theirs by type. -/
structure RposInRange (c : Cfg) (r : RPos) : Prop where
  ch : r.ch < c.n
  sb : r.sb < c.params.w
  byteCur : r.byteCur ≤ c.n * c.params.w

/-- What holds of every live Device (R20 to R36). -/
structure LiveInv (s : State) : Prop where
  leds : 1 ≤ s.cfg.ledCount
  channels : s.cfg.n = s.cfg.ledCount * Config.colorsPerLed
  size : s.cfg.s = bufSize s.cfg.params s.cfg.n
  params : encodable s.cfg.params = true
  letters : s.cfg.colorOrder ≠ [] ∧ lettersKnown s.cfg.colorOrder = true
  registers : s.br.length = s.cfg.n
  roles : s.role = (List.range s.cfg.n).map (roleAt s.cfg.colorOrder)
  names : s.nameOf = (List.range s.cfg.n).map fun i => Config.name (ledNumber i) (roleAt s.cfg.colorOrder i)
  resetRegion : ResetRegionZero s
  rpos : RposInRange s.cfg s.rpos

/-- What is left when there is no Device: nothing of the state of R20 (R36, R236). -/
structure GoneInv (s : State) : Prop where
  br : s.br = []
  buf : s.buf = []
  role : s.role = []
  nameOf : s.nameOf = []
  pending : s.pending = []
  wire : s.wire = []
  cfg : s.cfg = noCfg

/-- The invariant of the machine. -/
structure MachineInv (s : State) : Prop where
  memory : memWf s.buf
  live : s.fsm ≠ .unconstructed → LiveInv s
  gone : s.fsm = .unconstructed → GoneInv s
  /-- The lock is held exactly in Rendering and Transmitting (R27). -/
  lock : s.lock = .held ↔ s.fsm = .rendering ∨ s.fsm = .transmitting
  /-- A SET is in progress exactly while the lock is held (R26). -/
  tenure : s.tenure.isSome = true ↔ s.lock = .held

/-- No torn frame (R33, R59 c, R184): the buffer handed to the transmitter is FRAME of the registers, so is the buffer
in Idle once a SET has completed, and every frame on WIRE is FRAME of some N brightness values. -/
structure FrameInv (s : State) : Prop where
  idle : s.fsm = .idle → s.wire ≠ [] → snapshot s = frame s.cfg s.br
  transmitting : s.fsm = .transmitting → snapshot s = frame s.cfg s.br
  wire : ∀ e ∈ s.wire, ∃ br : List Byte, br.length = s.cfg.n ∧ e.frame = frame s.cfg br

end Sys2Proof.Machine
end

