-- ==== Sys2Proof/Certificates/Slice0/Obligations.lean ====
section
/-!
DEFINITION. The statements for the provers. Free values (`Config.txResult` and the other opaque functions) occur only
where the rule has one, and no statement rests on what they are.
-/
open Sys2Proof Sys2Proof.Machine

/-! ## Geometry Calculator -/

/-- R100: for a positive n, BUFSIZE(n) returns `((n*8*W + RESET_BITS) div 8) + TRAILER_BYTES` and changes nothing
else. -/
def Obligations.BufsizeReturnsTheFormula : Prop :=
  ∀ (s : State) (n : Nat), s.fsm ≠ .unconstructed → 0 < n →
    exec (.bufsize n) s = .next { s with
      out := .size ((n * 8 * s.cfg.params.w + s.cfg.params.resetBits) / 8 + s.cfg.params.trailerBytes) }

/-- R102: the closed form, the size of the reset region, the step, and the reference configuration. -/
def Obligations.BufsizeClosedForm : Prop :=
  ∀ (p : Params) (n : Nat),
    bufSize p n = n * p.w + p.resetBits / 8 + p.trailerBytes ∧
    bufSize p n - n * p.w = p.resetBits / 8 + p.trailerBytes ∧
    bufSize p (n + 1) - bufSize p n = p.w ∧
    bufSize Config.reference n = 3 * n + 20

/-- R106: BUFSIZE is non-decreasing, strictly increasing when W >= 1, and leaves room for the trailer after the display
region. -/
def Obligations.BufsizeMonotoneAndRoomy : Prop :=
  ∀ (p : Params) (n m : Nat),
    (n ≤ m → bufSize p n ≤ bufSize p m) ∧
    (1 ≤ p.w → n < m → bufSize p n < bufSize p m) ∧
    p.trailerBytes ≤ bufSize p n - n * p.w ∧
    n * p.w ≤ bufSize p n

/-- R105: the reset region holds at least RESET_BITS zero bus-bits exactly when the trailer absorbs what rounding down
drops, that is with one trailer byte or with nothing dropped. -/
def Obligations.TrailerAbsorbsTheRounding : Prop :=
  ∀ (p : Params) (n : Nat),
    (p.resetBits ≤ 8 * (bufSize p n - n * p.w) ↔ p.resetBits % 8 ≤ 8 * p.trailerBytes) ∧
    (p.resetBits % 8 ≤ 8 * p.trailerBytes ↔ 1 ≤ p.trailerBytes ∨ (p.trailerBytes = 0 ∧ p.resetBits % 8 = 0))

/-! ## Bit Encoder -/

/-- R115: ENCODE(1) is SYM1 and ENCODE(0) is SYM0, in every state, and nothing else changes. -/
def Obligations.EncodeReturnsTheSymbol : Prop :=
  ∀ s : State, s.fsm ≠ .unconstructed →
    exec (.encode true) s = .next { s with out := .symbol s.cfg.params.sym1 } ∧
    exec (.encode false) s = .next { s with out := .symbol s.cfg.params.sym0 }

/-- R116, R117: the symbol operations return the patterns that ENCODE(0) and ENCODE(1) return; at the reference
configuration (log 1) these are 100 and 110, in time high, low, low and high, high, low. -/
def Obligations.SymbolsReturnTheirPatterns : Prop :=
  (∀ s : State, s.fsm ≠ .unconstructed →
    exec .sym0 s = .next { s with out := .symbol s.cfg.params.sym0 } ∧
    exec .sym1 s = .next { s with out := .symbol s.cfg.params.sym1 } ∧
    exec .sym0 s = exec (.encode false) s ∧ exec .sym1 s = exec (.encode true) s) ∧
  Config.reference.sym0 = 0b100 ∧ Config.reference.sym1 = 0b110 ∧
  lineLevels Config.reference.w Config.reference.sym0 = [true, false, false] ∧
  lineLevels Config.reference.w Config.reference.sym1 = [true, true, false]

/-- R121: SYMDECODE inverts ENCODE and calls every other pattern invalid. -/
def Obligations.SymdecodeInvertsEncode : Prop :=
  ∀ p : Params, p.sym0 ≠ p.sym1 →
    symDecode p p.sym0 = some false ∧ symDecode p p.sym1 = some true ∧
    (∀ y, y ≠ p.sym0 → y ≠ p.sym1 → symDecode p y = none) ∧
    ∀ b, symDecode p (encodeBit p b) = some b

/-! ## Frame Renderer -/

/-- R133: one cursor step replaces the bit at the cursors, keeps the seven others of that byte and every other byte,
and moves the cursors one position on, reloading the bit cursor with 7 after bit 0. -/
def Obligations.CursorStepReplacesOneBit : Prop :=
  ∀ (p : Pass) (b : Bool), memWf p.buf →
    (∀ i, i < 8 → (memRead (putBit p b).buf p.rpos.byteCur).getLsbD i =
      if i = p.rpos.bitCur.val then b else (memRead p.buf p.rpos.byteCur).getLsbD i) ∧
    (∀ a, a ≠ p.rpos.byteCur → memRead (putBit p b).buf a = memRead p.buf a) ∧
    (p.rpos.bitCur = 0 → (putBit p b).rpos = { p.rpos with byteCur := p.rpos.byteCur + 1, bitCur := 7 }) ∧
    (p.rpos.bitCur ≠ 0 → (putBit p b).rpos.bitCur.val = p.rpos.bitCur.val - 1 ∧
      (putBit p b).rpos = { p.rpos with bitCur := (putBit p b).rpos.bitCur })

/-- R137: after RENDER in a state whose reset region is zero, the buffer is FRAME of the registers; nothing but the
buffer and the position changes. -/
def Obligations.RenderMakesTheFrame : Prop :=
  ∀ s : State, s.fsm = .rendering → memWf s.buf → LengthOk s → ResetRegionZero s →
    ∃ t, exec .render s = .next t ∧ snapshot t = frame s.cfg s.br ∧ memWf t.buf ∧
      t = { s with buf := t.buf, rpos := t.rpos }

/-- R135, R136: the pass is a walk of `8*N*W` bit writes at positions 0, 1, 2, ... in that order; just before the q-th
the cursors are `(q div 8, 7 - q mod 8)`, and the write at `p(k, j, t)` is sub-bit t of the symbol of bit j of BR[k]. -/
def Obligations.RenderWalksEveryPositionOnce : Prop :=
  ∀ s : State, s.fsm = .rendering → LengthOk s →
    ∃ (t : State) (bits : List Bool),
      exec .render s = .next t ∧ bits.length = 8 * s.cfg.n * s.cfg.params.w ∧
      (∀ k j u, k < s.cfg.n → j < 8 → u < s.cfg.params.w →
        bits[s.cfg.params.w * (8 * k + (7 - j)) + (s.cfg.params.w - 1 - u)]? =
          some (subBit (encodeBit s.cfg.params (logicalBit (readBr s k) j)) u)) ∧
      (∀ q, q ≤ bits.length →
        ((bits.take q).foldl putBit { buf := s.buf, rpos := startOfPass s.cfg.params.w }).rpos.byteCur = q / 8 ∧
        ((bits.take q).foldl putBit { buf := s.buf, rpos := startOfPass s.cfg.params.w }).rpos.bitCur.val = 7 - q % 8) ∧
      t.buf = (bits.foldl putBit { buf := s.buf, rpos := startOfPass s.cfg.params.w }).buf

/-- R139, R140: after the last bit write the cursors are `(N*W, 7)`; every write was inside the buffer and below the
reset region, whose bytes RENDER leaves as they were. -/
def Obligations.RenderStopsAtTheResetRegion : Prop :=
  ∀ s : State, s.fsm = .rendering → memWf s.buf → LengthOk s →
    s.cfg.n * s.cfg.params.w ≤ s.cfg.s ∧
    ∃ t, exec .render s = .next t ∧
      t.rpos.byteCur = s.cfg.n * s.cfg.params.w ∧ t.rpos.bitCur = 7 ∧
      ∀ a, s.cfg.n * s.cfg.params.w ≤ a → memRead t.buf a = memRead s.buf a

/-- R145: what a pass leaves depends on the registers and the configuration only, not on what the display region held;
so a second pass changes nothing. -/
def Obligations.RenderForgetsOldContent : Prop :=
  ∀ (s : State) (old : Memory), s.fsm = .rendering → memWf s.buf → memWf old → LengthOk s →
    (∀ a, s.cfg.n * s.cfg.params.w ≤ a → memRead old a = memRead s.buf a) →
    ∃ t u v, exec .render s = .next t ∧ exec .render { s with buf := old } = .next u ∧ u.buf = t.buf ∧
      exec .render t = .next v ∧ v.buf = t.buf

/-- R144: decoding a rendered frame gives the brightness bytes back, so FRAME is injective. -/
def Obligations.FrameRoundTrip : Prop :=
  ∀ (c : Cfg) (br br' : List Byte), encodable c.params = true → c.n * c.params.w ≤ c.s →
    br.length = c.n → br'.length = c.n →
    decodeFrame c.params (frame c br) c.n = some br ∧ (frame c br = frame c br' → br = br')

/-- R143: DECODE completes on every buffer of at least `n*W` bytes and returns the n bytes whose bits the slots decode
to, most significant first, or invalid when some slot holds neither symbol; a shorter buffer is outside its contract
(log 13). -/
def Obligations.DecodeReadsEverySlot : Prop :=
  ∀ (s : State) (buf : List Byte) (n : Nat), s.fsm ≠ .unconstructed →
    (n * s.cfg.params.w ≤ buf.length →
      ∃ r, exec (.decode buf n) s = .next { s with out := .decoded r } ∧
        ∀ vs, r = some vs ↔ vs.length = n ∧ ∀ k i, k < n → i < 8 →
          symDecode s.cfg.params (symbolAt buf (s.cfg.params.w * (8 * k + i)) s.cfg.params.w) =
            some ((vs.getD k 0#8).getLsbD (7 - i))) ∧
    (buf.length < n * s.cfg.params.w → exec (.decode buf n) s = .refused .shortBuffer)

/-- R143, R51: the pattern of a slot is the W-bit value whose bit `W-1-u` is the bus-bit u positions on. -/
def Obligations.SlotPatternIsBigEndian : Prop :=
  ∀ (buf : List Byte) (q w : Nat), symbolAt buf q w < 2 ^ w ∧
    ∀ u, u < w → (symbolAt buf q w).testBit (w - 1 - u) = busBit buf (q + u)

/-- R146: 0x00 renders as 0-symbols only and 0xFF as 1-symbols only; flipping bit j of BR[k] changes the frame exactly
at the positions `p(k, j, t)` where the symbols differ, which at the reference configuration is one position. -/
def Obligations.FrameChangesOnlyWhereTheSymbolsDiffer : Prop :=
  ∀ (c : Cfg) (br : List Byte) (k j : Nat), c.n * c.params.w ≤ c.s → br.length = c.n → k < c.n → j < 8 →
    (br.getD k 0#8 = 0x00#8 → ∀ t, t < c.params.w →
      busBit (frame c br) (c.params.w * (8 * k + (7 - j)) + (c.params.w - 1 - t)) = c.params.sym0.testBit t) ∧
    (br.getD k 0#8 = 0xFF#8 → ∀ t, t < c.params.w →
      busBit (frame c br) (c.params.w * (8 * k + (7 - j)) + (c.params.w - 1 - t)) = c.params.sym1.testBit t) ∧
    (∀ x, x < 8 * c.s →
      (busBit (frame c (br.set k (br.getD k 0#8 ^^^ (1#8 <<< j)))) x ≠ busBit (frame c br) x ↔
        ∃ t, t < c.params.w ∧ x = c.params.w * (8 * k + (7 - j)) + (c.params.w - 1 - t) ∧
          c.params.sym0.testBit t ≠ c.params.sym1.testBit t)) ∧
    (c.params = Config.reference → ∀ x, x < 8 * c.s →
      (busBit (frame c (br.set k (br.getD k 0#8 ^^^ (1#8 <<< j)))) x ≠ busBit (frame c br) x ↔
        x = 3 * (8 * k + (7 - j)) + 1))

/-- R84: at the reference symbols the three bytes of channel k are the formulas E0, E1, E2 of its value. -/
def Obligations.ReferenceByteFormulas : Prop :=
  ∀ (c : Cfg) (br : List Byte) (k : Nat), c.params = Config.reference → c.n * c.params.w ≤ c.s →
    br.length = c.n → k < c.n →
    let v := br.getD k 0#8
    let b := fun (j : Nat) => if v.getLsbD j then 1#8 else 0#8
    (frame c br).getD (3 * k) 0#8 = 0x92#8 ||| (b 7 <<< 6) ||| (b 6 <<< 3) ||| b 5 ∧
    (frame c br).getD (3 * k + 1) 0#8 = 0x49#8 ||| (b 4 <<< 5) ||| (b 3 <<< 2) ∧
    (frame c br).getD (3 * k + 2) 0#8 = 0x24#8 ||| (b 2 <<< 7) ||| (b 1 <<< 4) ||| (b 0 <<< 1)

/-! ## Channel Registry -/

/-- R161: in Idle, GET of a valid index answers `OK` with the register's value, and only the response is added. -/
def Obligations.GetAnswersTheRegister : Prop :=
  ∀ (s : State) (c : Nat), s.fsm = .idle → LengthOk s → c < s.cfg.n →
    exec (.get c) s = .next { s with rsp := s.rsp ++ [⟨.get c, (readBr s c).setWidth 16⟩] }

/-- R202: an index that is not below N is answered `BAD_INDEX` before any other step: no tenure, no register write, no
render, no transmit. -/
def Obligations.BadIndexChangesNothing : Prop :=
  ∀ (s : State) (c : Nat) (v : Byte), s.fsm ≠ .unconstructed → s.cfg.n ≤ c →
    exec (.set c v) s = .next { s with rsp := s.rsp ++ [⟨.set c v, 0x0200#16⟩] } ∧
    (s.fsm = .idle → exec (.get c) s = .next { s with rsp := s.rsp ++ [⟨.get c, 0x0200#16⟩] })

/-- R177, R161, R185: while a tenure runs, a SET and a GET wait in PENDING and change nothing else. That a GET waits
before its index is looked at is R161's order, which the model takes where R202 could be read otherwise (log 8). -/
def Obligations.CommandsWaitForTheTenure : Prop :=
  ∀ (s : State) (c : Nat) (v : Byte), s.fsm = .rendering ∨ s.fsm = .transmitting → s.lock = .held →
    exec (.get c) s = .next { s with pending := s.pending ++ [.get c] } ∧
    (c < s.cfg.n → exec (.set c v) s = .next { s with pending := s.pending ++ [.set c v] })

/-! ## Update Coordinator -/

/-- R175: a SET of a valid index with the lock free writes its register, renders the whole frame, transmits it once,
releases the lock and answers `OK` or the transmitter's error; the transmitter's answer is a free value. -/
def Obligations.SetRunsOneWholeTenure : Prop :=
  ∀ (s : State) (c : Nat) (v : Byte), Ready s → c < s.cfg.n →
    ∃ (t : State) (r : TxResult), exec (.set c v) s = .next t ∧ r = Config.txResult s.draws ∧
      t.br = s.br.set c v ∧ snapshot t = frame s.cfg t.br ∧
      t.wire = s.wire ++ [⟨frame s.cfg t.br, r⟩] ∧ t.lock = .free ∧ t.fsm = .idle ∧
      t.rsp = s.rsp ++ [⟨.set c v, match r with | .ok => 0x0000#16 | .err e => 0x0100#16 ||| e.setWidth 16⟩]

/-- R162, R140, R25: what a SET leaves alone: every other register, the reset region and everything beyond it, the
configuration, roles, names, the waiting requests and the interfaces. It stores only to the addresses below `N*W`. -/
def Obligations.SetLeavesTheRestAlone : Prop :=
  ∀ (s : State) (c : Nat) (v : Byte), Ready s → c < s.cfg.n →
    ∃ t, exec (.set c v) s = .next t ∧
      (∀ i, i ≠ c → readBr t i = readBr s i) ∧ readBr t c = v ∧ t.br.length = s.br.length ∧
      (∀ a, s.cfg.n * s.cfg.params.w ≤ a → memRead t.buf a = memRead s.buf a) ∧
      t.cfg = s.cfg ∧ t.role = s.role ∧ t.nameOf = s.nameOf ∧ t.pending = s.pending ∧ t.port = s.port ∧
      t.initStatus = s.initStatus ∧ t.tenure = none ∧ memWf t.buf

/-- R180: a SET whose value the register already holds renders and transmits like any other. -/
def Obligations.SameValueIsSentAgain : Prop :=
  ∀ (s : State) (c : Nat), Ready s → c < s.cfg.n →
    ∃ t r, exec (.set c (readBr s c)) s = .next t ∧ t.br = s.br ∧ t.wire = s.wire ++ [⟨frame s.cfg s.br, r⟩] ∧
      snapshot t = frame s.cfg s.br

/-- R181, R59: K SETs give K frames on WIRE, in their order; the i-th reflects exactly the writes made so far, and the
machine is Idle with the lock free again. -/
def Obligations.SetsInSequenceGiveOneFrameEach : Prop :=
  ∀ (s : State) (cvs : List (Nat × Byte)), Ready s → (∀ cv ∈ cvs, cv.1 < s.cfg.n) →
    ∃ t, execAll (setsOf cvs) s = .next t ∧ Ready t ∧ t.cfg = s.cfg ∧ t.br = writesOf s.br cvs ∧
      t.wire.length = s.wire.length + cvs.length ∧ s.wire <+: t.wire ∧
      (∀ i, i < cvs.length → (t.wire[s.wire.length + i]?).map (·.frame) =
        some (frame s.cfg (writesOf s.br (cvs.take (i + 1))))) ∧
      (cvs ≠ [] → snapshot t = frame s.cfg t.br)

/-- R186: SETs on distinct channels leave the same registers and the same buffer in every order, reflecting all
updates; of two SETs on one channel the later wins. -/
def Obligations.DistinctSetsLeaveTheSameInAnyOrder : Prop :=
  ∀ (s : State) (cvs cvs' : List (Nat × Byte)), Ready s → (∀ cv ∈ cvs, cv.1 < s.cfg.n) → cvs.Perm cvs' →
    (cvs.map Prod.fst).Nodup →
    (∃ t t', execAll (setsOf cvs) s = .next t ∧ execAll (setsOf cvs') s = .next t' ∧ t.br = t'.br ∧ t.buf = t'.buf ∧
      (∀ cv ∈ cvs, readBr t cv.1 = cv.2) ∧ (cvs ≠ [] → snapshot t = frame s.cfg t.br)) ∧
    ∀ c v v', c < s.cfg.n → ∃ t, execAll (setsOf [(c, v), (c, v')]) s = .next t ∧ readBr t c = v'

/-- R179: the state after a failed transmit: the write is not rolled back, the buffer is the new frame, the lock is
free, the frame is on WIRE with its error, the caller gets the error; and the same SET again leaves the identical
buffer. A SET is this tenure at the answer drawn. -/
def Obligations.FailedTransmitKeepsTheUpdate : Prop :=
  ∀ (s : State) (c : Nat) (v e : Byte) (r : TxResult), Ready s → c < s.cfg.n →
    exec (.set c v) s = .next (runTenure s c v (Config.txResult s.draws)) ∧
    (runTenure s c v (.err e)).br = s.br.set c v ∧
    snapshot (runTenure s c v (.err e)) = frame s.cfg (s.br.set c v) ∧
    (runTenure s c v (.err e)).lock = .free ∧ (runTenure s c v (.err e)).fsm = .idle ∧
    (runTenure s c v (.err e)).wire = s.wire ++ [⟨frame s.cfg (s.br.set c v), .err e⟩] ∧
    (runTenure s c v (.err e)).rsp = s.rsp ++ [⟨.set c v, 0x0100#16 ||| e.setWidth 16⟩] ∧
    (runTenure s c v (.err e)).buf = (runTenure s c v .ok).buf ∧
    (runTenure (runTenure s c v (.err e)) c v r).buf = (runTenure s c v (.err e)).buf

/-- R182: TRANSMIT appends the snapshot of all S bytes with the transmitter's answer, a free value, to WIRE and returns
the answer; registers and buffer stay. -/
def Obligations.TransmitRecordsTheSnapshot : Prop :=
  ∀ s : State, s.fsm = .transmitting →
    exec .transmit s = .next { s with
      wire := s.wire ++ [⟨(List.range s.cfg.s).map (memRead s.buf), Config.txResult s.draws⟩]
      out := .tx (Config.txResult s.draws)
      draws := s.draws + 1 }

/-- R176: the transitions of the coordinator that a step makes by itself: Rendering to Transmitting when the pass ends,
Transmitting to Idle whatever the transmitter answers, with the lock released. A waiting request that is started in Idle,
in its abstract form or as a word: a SET of a valid index goes to Rendering with the lock taken and its register
written; a GET, a bad index and a reserved word are answered and nothing else changes. -/
def Obligations.CoordinatorMakesItsTransitions : Prop :=
  ∀ s : State, LengthOk s →
    (s.port = none → s.fsm = .rendering → ∃ t, step s = .next t ∧ t.fsm = .transmitting ∧ t.lock = s.lock ∧
      t.br = s.br ∧ t.wire = s.wire ∧ t.rsp = s.rsp) ∧
    (s.port = none → s.fsm = .transmitting → ∃ t r, step s = .next t ∧ t.fsm = .idle ∧ t.lock = .free ∧ t.br = s.br ∧
      t.buf = s.buf ∧ t.wire = s.wire ++ [⟨snapshot s, r⟩]) ∧
    (s.fsm = .idle → s.lock = .free → ∀ q : Request,
      (∀ c v, decodeRequest q = .ok (.set c v) →
        (c < s.cfg.n → ∃ t, serve q s = .next t ∧ t.fsm = .rendering ∧ t.lock = .held ∧ t.br = s.br.set c v ∧
          t.buf = s.buf ∧ t.wire = s.wire ∧ t.rsp = s.rsp ∧ t.tenure = some (.set c v)) ∧
        (s.cfg.n ≤ c → serve q s = .next { s with rsp := s.rsp ++ [⟨.set c v, 0x0200#16⟩] })) ∧
      (∀ c, decodeRequest q = .ok (.get c) → serve q s = .next { s with
        rsp := s.rsp ++ [⟨.get c, if c < s.cfg.n then (readBr s c).setWidth 16 else 0x0200#16⟩] }) ∧
      (∀ e, decodeRequest q = .error e → serve q s = .next { s with rsp := s.rsp ++ [⟨q, 0x0300#16⟩] }))

/-- R58, R176: the tenure run transition by transition (started, then two steps) is the SET run at once: the same
registers, buffer, position, frame on WIRE and response, for the answer drawn. Only the requests that arrived meanwhile
and the count of draws differ. -/
def Obligations.PhasedTenureIsTheSet : Prop :=
  ∀ (s : State) (c : Nat) (v : Byte), s.port = none → s.fsm = .idle → s.lock = .free → LengthOk s → c < s.cfg.n →
    ∃ t₁ t₃ r, serve (.set c v) s = .next t₁ ∧ core.run 2 t₁ = .next t₃ ∧
      s.pending <+: t₃.pending ∧
      t₃ = { runTenure s c v r with pending := t₃.pending, draws := t₃.draws }

/-- R185: in Idle with nothing at the port, some waiting request (any one) leaves PENDING and is started, or nothing
waits and the host may move; before construction only the host moves. -/
def Obligations.SomeWaitingRequestStarts : Prop :=
  ∀ s : State, s.port = none →
    (s.fsm = .idle →
      (∃ i q, (arrivals s).pending[i]? = some q ∧
        step s = serve q { arrivals s with
          pending := (arrivals s).pending.eraseIdx i, draws := (arrivals s).draws + 1 }) ∨
      ((arrivals s).pending = [] ∧ step s = hostMove (arrivals s))) ∧
    (s.fsm = .unconstructed →
      (∃ p led order, step s = exec (.construct p led order) { s with draws := s.draws + 1 }) ∨
      step s = .next { s with draws := s.draws + 1 })

/-! ## Construction and teardown -/

/-- R230: a CONSTRUCT that passes its checks completes: every register 0, roles and names assigned, the buffer zero,
the lock free, Idle, PENDING and WIRE empty, CFG fixed; what was answered before stays. An empty colour order counts as
absent (D15). -/
def Obligations.ConstructBuildsTheDevice : Prop :=
  ∀ (s : State) (p : Params) (led : Option Int) (order : Option (List Char)),
    s.fsm = .unconstructed → Buildable p led order →
    ∃ t, exec (.construct p led order) s = .next t ∧
      t.cfg.ledCount = (ledCountOf led).toNat ∧ t.cfg.n = 3 * (ledCountOf led).toNat ∧ t.cfg.params = p ∧
      t.cfg.s = bufSize p (3 * (ledCountOf led).toNat) ∧ t.cfg.colorOrder = colorOrderOf order ∧
      (order = none ∨ order = some [] → t.cfg.colorOrder = ['G', 'R', 'B']) ∧
      t.br = List.replicate (3 * (ledCountOf led).toNat) 0#8 ∧
      t.role = (List.range (3 * (ledCountOf led).toNat)).map (roleAt (colorOrderOf order)) ∧
      t.nameOf = (List.range (3 * (ledCountOf led).toNat)).map
        (fun i => Config.name (i / 3) (roleAt (colorOrderOf order) i)) ∧
      (∀ a, memRead t.buf a = 0#8) ∧ t.lock = .free ∧ t.fsm = .idle ∧ t.pending = [] ∧ t.wire = [] ∧
      t.initStatus = .ok ∧ t.rsp = s.rsp ∧ t.port = s.port

/-- R250, R232: the state after a successful CONSTRUCT of a configuration that meets R11 meets every launch premise of
a run, and no run is under way in it. -/
def Obligations.ConstructMeetsTheLaunchPremises : Prop :=
  ∀ (s : State) (p : Params) (led : Option Int) (order : Option (List Char)),
    s.fsm = .unconstructed → Buildable p led order → p.wf = true →
    ∃ t, exec (.construct p led order) s = .next t ∧ WellformedCfg t ∧ Constructed t ∧ ResetRegionZero t ∧
      LengthOk t ∧ Fresh t ∧ RunOver t ∧ Ready t

/-- R204, R205, R209: the errors of CONSTRUCT in their order; nothing is created, only the init status changes. -/
def Obligations.ConstructFailsFast : Prop :=
  ∀ (s : State) (p : Params) (led : Option Int) (order : Option (List Char)), s.fsm = .unconstructed →
    (led.getD 1 ≤ 0 → exec (.construct p led order) s = .next { s with initStatus := .configurationError 1 }) ∧
    (0 < led.getD 1 → lettersKnown (colorOrderOf order) = false →
      exec (.construct p led order) s = .next { s with initStatus := .configurationError 2 }) ∧
    (0 < led.getD 1 → lettersKnown (colorOrderOf order) = true → encodable p = true →
      (tooLarge p (3 * (led.getD 1).toNat) = true ∨ tooLarge p (bufSize p (3 * (led.getD 1).toNat)) = true) →
      exec (.construct p led order) s = .next { s with initStatus := .allocationError })

/-- R231: an absent LED count is 1 and an absent colour order is "GRB"; a present but bad value is an error, not the
default. -/
def Obligations.ConstructDefaults : Prop :=
  ∀ (s : State) (p : Params) (led : Option Int) (order : Option (List Char)),
    exec (.construct p none order) s = exec (.construct p (some 1) order) s ∧
    exec (.construct p led none) s = exec (.construct p led (some ['G', 'R', 'B'])) s ∧
    (s.fsm = .unconstructed →
      (∃ n, led = some n ∧ n ≤ 0) ∨ (∃ o, order = some o ∧ ∃ c ∈ o, c ≠ 'R' ∧ c ≠ 'G' ∧ c ≠ 'B') →
      ∃ sub, exec (.construct p led order) s = .next { s with initStatus := .configurationError sub })

/-- R165: CONSTRUCT gives channel i the role of letter `i mod L` of the colour order, so with "GRB" channels 0 to 3 are
Green, Red, Blue, Green; no operation on a live Device changes a role. -/
def Obligations.RolesFollowTheColourOrder : Prop :=
  (∀ (s : State) (p : Params) (led : Option Int) (order : Option (List Char)),
    s.fsm = .unconstructed → Buildable p led order →
    ∃ t, exec (.construct p led order) s = .next t ∧ t.role.length = t.cfg.n ∧
      (∀ i, i < t.cfg.n →
        ∃ l, (colorOrderOf order)[i % (colorOrderOf order).length]? = some l ∧
          ((l = 'R' ∧ t.role[i]? = some .red) ∨ (l = 'G' ∧ t.role[i]? = some .green) ∨
            (l = 'B' ∧ t.role[i]? = some .blue))) ∧
      (order = none → t.role.take 3 = [.green, .red, .blue] ∧ (3 < t.cfg.n → t.role[3]? = some .green))) ∧
  (∀ (i : Instr) (s t : State), s.fsm ≠ .unconstructed → i ≠ .teardown → exec i s = .next t → t.role = s.role)

/-- R236: TEARDOWN in Idle with nothing waiting completes. All state of R20 is gone and the machine is Unconstructed;
nothing is transmitted: no answer of the transmitter is drawn, and the responses, the init status, the function result
and the port stay as they are (log 18). GET and SET are then refused. -/
def Obligations.TeardownRemovesTheDevice : Prop :=
  ∀ s : State, s.fsm = .idle → s.pending = [] →
    ∃ t, exec .teardown s = .next t ∧
      t = { s with
        br := [], buf := [], rpos := startOfPass 0, fsm := .unconstructed, lock := .free, cfg := noCfg, role := []
        nameOf := [], pending := [], wire := [], tenure := none } ∧
      t.out = s.out ∧ t.draws = s.draws ∧ t.rsp = s.rsp ∧
      ∀ c v, exec (.get c) t = .refused .notConstructed ∧ exec (.set c v) t = .refused .notConstructed

/-- R235: a new CONSTRUCT after a TEARDOWN starts from the reset values: nothing of the old Device is left in what it
builds. -/
def Obligations.NothingSurvivesReconstruction : Prop :=
  ∀ (s s' : State) (p : Params) (led : Option Int) (order : Option (List Char)),
    s.fsm = .idle → s.pending = [] → s'.fsm = .idle → s'.pending = [] → Buildable p led order →
    ∃ u u', execAll [.teardown, .construct p led order] s = .next u ∧
      execAll [.teardown, .construct p led order] s' = .next u' ∧ Fresh u ∧
      u' = { u with rsp := s'.rsp, out := s'.out, port := s'.port, draws := s'.draws }

/-- R234, D18 (the spec's own decision): with no Device, every operation but CONSTRUCT is refused, and so is a reserved
word; a live Device refuses CONSTRUCT (R235, log 13). -/
def Obligations.UnconstructedRefusesEverythingElse : Prop :=
  ∀ (s : State) (i : Instr),
    (s.fsm = .unconstructed → (∀ p led order, i ≠ .construct p led order) →
      exec i s = .refused .notConstructed) ∧
    (s.fsm = .unconstructed → ∀ q, badCommand q s = .refused .notConstructed) ∧
    (s.fsm ≠ .unconstructed → ∀ p led order, exec (.construct p led order) s = .refused .alreadyConstructed)

/-- The model's stops on a live Device, each by name: TEARDOWN while a SET is in progress or waiting (D18), RENDER and
TRANSMIT outside the tenure (R130, R182, log 13), registers or buffer of the wrong size (R65, D25, log 14), parameters
that U3 refuses (log 15), BUFSIZE of no channels (U17, log 13), a reserved symbol at the port (U9, log 12). -/
def Obligations.StopsAreNamed : Prop :=
  (∀ s : State, s.fsm ≠ .unconstructed → s.fsm ≠ .idle ∨ s.pending ≠ [] →
    exec .teardown s = .refused .teardownBusy) ∧
  (∀ s : State, s.fsm ≠ .unconstructed → s.fsm ≠ .rendering → exec .render s = .refused .outsideTenure) ∧
  (∀ s : State, s.fsm ≠ .unconstructed → s.fsm ≠ .transmitting → exec .transmit s = .refused .outsideTenure) ∧
  (∀ s : State, s.br.length ≠ s.cfg.n ∨ s.cfg.s < s.cfg.n * s.cfg.params.w →
    (s.fsm = .idle → s.lock = .free → ∀ c v, c < s.cfg.n →
      exec (.set c v) s = .fault .badGeometry ∧ exec (.get c) s = .fault .badGeometry) ∧
    (s.fsm = .rendering → exec .render s = .fault .badGeometry)) ∧
  (∀ (s : State) (p : Params) (led : Option Int) (order : Option (List Char)), s.fsm = .unconstructed →
    0 < led.getD 1 → lettersKnown (colorOrderOf order) = true → encodable p = false →
    exec (.construct p led order) s = .refused .illFormedConfig) ∧
  (∀ s : State, s.fsm ≠ .unconstructed → exec (.bufsize 0) s = .refused .zeroChannels) ∧
  (∀ (s : State) (y : Nat), s.fsm ≠ .unconstructed → s.port = some (.symbol y) → symDecode s.cfg.params y = none →
    step s = .refused .reservedSymbol)

/-! ## Encodings and the step -/

/-- R87, R88: SET and GET as numbers. -/
def Obligations.CommandWordsAsNumbers : Prop :=
  ∀ (p : Params) (c : Nat) (v : Byte), c < 2 ^ 20 →
    encode p (.set c v) = some (.command (BitVec.ofNat 32 (0x10000000 + c * 2 ^ 8 + v.toNat))) ∧
    encode p (.get c) = some (.command (BitVec.ofNat 32 (0x20000000 + c * 2 ^ 8)))

/-- R86 to R90, R80, R81: decoding what encoding gives for a well-formed operation gives it back, with every operand;
and every command word and symbol that decodes is the encoding of what it decodes to. -/
def Obligations.DecodeAndEncodeAgree : Prop :=
  (∀ (p : Params) (i : Instr) (f : Fetch), p.sym0 ≠ p.sym1 → i.wf = true → encode p i = some f →
    decodeFetch p f = .ok i) ∧
  (∀ (p : Params) (i : Instr) (f : Fetch), decodeFetch p f = .ok i → encode p i = some f ∧ i.wf = true)

/-- R89, R203: the reserved words are those with `op` neither 1 nor 2, and those with `op` 2 and `val` not 0; a step
answers one with `BAD_COMMAND` and changes nothing else. -/
def Obligations.ReservedWordsAnswerBadCommand : Prop :=
  ∀ (s : State) (w : Word),
    ((∃ e, decodeCommand w = .error e) ↔
      (w >>> 28 ≠ 1#32 ∧ w >>> 28 ≠ 2#32) ∨ (w >>> 28 = 2#32 ∧ w &&& 0xFF#32 ≠ 0#32)) ∧
    (s.fsm ≠ .unconstructed → s.port = some (.command w) → (∃ e, decodeCommand w = .error e) →
      step s = .next { s with port := none, rsp := s.rsp ++ [⟨.word w, 0x0300#16⟩] })

/-- The words of section 7 of 95_test_vectors.md; and, in the form that log 12 gives the table's two symbol rows, the
symbols of the reference configuration (log 1). -/
def Obligations.SampleWordsDecode : Prop :=
  decodeTableWord 32 0x10000001 = some (.set 0 0x01#8) ∧
  decodeTableWord 32 0x10000100 = some (.set 1 0x00#8) ∧
  decodeTableWord 32 0x10000280 = some (.set 2 0x80#8) ∧
  decodeTableWord 32 0x100005BC = some (.set 5 0xBC#8) ∧
  decodeTableWord 32 0x1FFFFFFF = some (.set 1048575 0xFF#8) ∧
  decodeTableWord 32 0x20000200 = some (.get 2) ∧ decodeTableWord 32 0x20000300 = some (.get 3) ∧
  decodeTableWord 32 0x20000201 = none ∧ decodeTableWord 32 0x00000000 = none ∧
  decodeTableWord 32 0x30000000 = none ∧ decodeTableWord 32 0xF0000000 = none ∧
  decodeTableWord 8 0b100 = some .sym0 ∧ decodeTableWord 8 0b110 = some .sym1 ∧ decodeTableWord 8 0b101 = none

/-- R91: the response word: bits 15:12 zero, status in 11:8, data in 7:0; a SET's is `OK` or the transmitter's code.
R200, D14: the init status of a CONSTRUCT is 0, or 1 with its sub-code, or 2. -/
def Obligations.ResponseWordLayout : Prop :=
  ∀ (status : BitVec 4) (data e : Byte),
    (rspWord status data).extractLsb' 12 4 = 0#4 ∧ (rspWord status data).extractLsb' 8 4 = status ∧
    (rspWord status data).extractLsb' 0 8 = data ∧
    statusOk = 0#4 ∧ statusBusError = 1#4 ∧ statusBadIndex = 2#4 ∧ statusBadCommand = 3#4 ∧
    setRsp .ok = rspWord statusOk 0#8 ∧ setRsp (.err e) = rspWord statusBusError e ∧
    initCode .ok = (0, 0) ∧ initCode (.configurationError 1) = (1, 1) ∧ initCode (.configurationError 2) = (1, 2) ∧
    (initCode .allocationError).1 = 2

/-- A step runs the instruction that the pattern at the port decodes to, with the port emptied and nothing else
around it. -/
def Obligations.StepRunsTheDecodedInstruction : Prop :=
  ∀ (s : State) (f : Fetch) (i : Instr), s.port = some f → decodeFetch s.cfg.params f = .ok i →
    step s = exec i { s with port := none }

/-! ## Reset and invariants -/

/-- R35: the state after reset, in what the rule states: every register 0, the reset region zero, FSM Idle, LOCK free,
PENDING and WIRE empty, CFG by its formulas, ROLE and NAMEOF from the default order. -/
def Obligations.ResetLeavesTheTable : Prop :=
  (∀ v ∈ State.reset.br, v = 0#8) ∧ State.reset.br.length = State.reset.cfg.n ∧
  (∀ a, State.reset.cfg.n * State.reset.cfg.params.w ≤ a → memRead State.reset.buf a = 0#8) ∧
  State.reset.fsm = .idle ∧ State.reset.lock = .free ∧ State.reset.pending = [] ∧ State.reset.wire = [] ∧
  State.reset.cfg.ledCount = 1 ∧ State.reset.cfg.n = 3 * State.reset.cfg.ledCount ∧
  State.reset.cfg.s = bufSize State.reset.cfg.params State.reset.cfg.n ∧
  State.reset.cfg.colorOrder = ['G', 'R', 'B'] ∧ State.reset.role = [.green, .red, .blue] ∧
  State.reset.nameOf = [Config.name 0 .green, Config.name 0 .red, Config.name 0 .blue]

/-- The machine after reset meets the invariant. -/
def Obligations.ResetMeetsTheInvariant : Prop := MachineInv State.reset

/-- Every step keeps the invariant: the buffer's canonical form, CFG and BR of one geometry, the reset region zero, the
position in its ranges, the lock held exactly in Rendering and Transmitting, nothing left without a Device. -/
def Obligations.StepKeepsTheInvariant : Prop :=
  ∀ s t : State, MachineInv s → step s = .next t → MachineInv t

/-- The machine after reset has no torn frame. -/
def Obligations.ResetHasNoTornFrame : Prop := FrameInv State.reset

/-- R33, R59 c, R184: no step makes a torn frame: in Idle once a SET has completed, and in Transmitting, the buffer is
FRAME of the registers, and every frame on WIRE is FRAME of some N brightness values. -/
def Obligations.NoStepTearsAFrame : Prop :=
  ∀ s t : State, MachineInv s → FrameInv s → step s = .next t → FrameInv t

/-- R184, R144: every frame on WIRE decodes to N brightness values. -/
def Obligations.EveryFrameOnWireDecodes : Prop :=
  ∀ s : State, MachineInv s → FrameInv s → s.fsm ≠ .unconstructed →
    ∀ e ∈ s.wire, ∃ br, br.length = s.cfg.n ∧ decodeFrame s.cfg.params e.frame s.cfg.n = some br ∧
      e.frame = frame s.cfg br

/-- R219, R21, R25, R29: which operations can change what. The buffer: RENDER, SET and the lifecycle; the registers:
SET and the lifecycle; the configuration, roles and names: the lifecycle; WIRE: SET, TRANSMIT and the lifecycle. -/
def Obligations.OnlyTheNamedOperationsWrite : Prop :=
  ∀ (i : Instr) (s t : State), exec i s = .next t →
    (∀ p led order, i ≠ .construct p led order) → i ≠ .teardown →
    t.cfg = s.cfg ∧ t.role = s.role ∧ t.nameOf = s.nameOf ∧ t.initStatus = s.initStatus ∧
    ((∀ c v, i ≠ .set c v) → t.br = s.br ∧ t.lock = s.lock ∧ t.fsm = s.fsm ∧ t.tenure = s.tenure) ∧
    ((∀ c v, i ≠ .set c v) → i ≠ .render → t.buf = s.buf ∧ t.rpos = s.rpos) ∧
    ((∀ c v, i ≠ .set c v) → i ≠ .transmit → t.wire = s.wire)

/-- R168: colour order, roles and names do not reach the frame: a pass over the same registers writes the same
buffer. -/
def Obligations.RolesDoNotReachTheFrame : Prop :=
  ∀ (s : State) (role : List Role) (names : List String) (order : List Char), s.fsm = .rendering → LengthOk s →
    ∃ t t', exec .render s = .next t ∧
      exec .render { s with role := role, nameOf := names, cfg := { s.cfg with colorOrder := order } } = .next t' ∧
      t'.buf = t.buf ∧ t'.rpos = t.rpos

/-! ## The shape of the symbols and the place of every sub-bit -/

/-- R119, R120: the check on the run shape and the high-time check hold exactly if each symbol is, in time, a run of
highs and then a run of lows, neither empty, and the 1-symbol is high longer. -/
def Obligations.SymbolsStartHighAndEndLow : Prop :=
  ∀ p : Params, (p.wfRunShape = true ∧ p.wfHighTime = true) ↔
    ∃ h₀ h₁, 0 < h₀ ∧ h₀ < h₁ ∧ h₁ < p.w ∧
      lineLevels p.w p.sym0 = List.replicate h₀ true ++ List.replicate (p.w - h₀) false ∧
      lineLevels p.w p.sym1 = List.replicate h₁ true ++ List.replicate (p.w - h₁) false

/-- R136: before the q-th bit write of a pass the cursors stand at q; the positions `p(k, j, t)` are the bus-bits of the
display region, each of exactly one sub-bit; and after RENDER bit `7 - p mod 8` of `BUF[p div 8]` is that sub-bit. -/
def Obligations.EverySubBitHasItsPosition : Prop :=
  ∀ s : State, s.fsm = .rendering → memWf s.buf → LengthOk s →
    (∀ bits : List Bool,
      CursorAt (bits.foldl putBit { buf := s.buf, rpos := startOfPass s.cfg.params.w }).rpos bits.length) ∧
    (∀ q, q < 8 * s.cfg.n * s.cfg.params.w ↔
      ∃ k j u, k < s.cfg.n ∧ j < 8 ∧ u < s.cfg.params.w ∧ q = bitPosition s.cfg.params.w k j u) ∧
    (∀ k j u k' j' u', j < 8 → u < s.cfg.params.w → j' < 8 → u' < s.cfg.params.w →
      bitPosition s.cfg.params.w k j u = bitPosition s.cfg.params.w k' j' u' → k = k' ∧ j = j' ∧ u = u') ∧
    ∃ t, exec .render s = .next t ∧
      ∀ k j u, k < s.cfg.n → j < 8 → u < s.cfg.params.w →
        let p := s.cfg.params.w * (8 * k + (7 - j)) + (s.cfg.params.w - 1 - u)
        bitPosition s.cfg.params.w k j u = p ∧
          (memRead t.buf (p / 8)).getLsbD (7 - p % 8) = subBit (encodeBit s.cfg.params (logicalBit (readBr s k) j)) u

/-! ## Waiting requests -/

/-- R185: the machine's own run is one of the runs that the step relation allows. -/
def Obligations.MachineRunsByItsChoices : Prop :=
  ∀ s : State, ∃ c : Nat → Choice, ∀ k, runBy c k s = core.run k s

/-- R185: in Idle with nothing at the port, any one waiting request may start: some choice starts it and takes it, and
no other, out of PENDING. -/
def Obligations.AnyWaitingRequestMayStart : Prop :=
  ∀ (s : State) (i : Nat) (q : Request), s.port = none → s.fsm = .idle → s.pending[i]? = some q →
    ∃ c, Starts c s q ∧
      nextStepBy c s = serve q { s with pending := s.pending.eraseIdx i, draws := s.draws + 2 }

/-- R183, R176: a request that is started is answered within three steps, whatever is chosen meanwhile, and no other
answer is given before it. That every TRANSMIT returns is in the step (log 22). -/
def Obligations.StartedRequestIsAnswered : Prop :=
  ∀ (c : Nat → Choice) (s : State) (q : Request), MachineInv s → Starts (c 0) s q →
    ∃ k t w, 1 ≤ k ∧ k ≤ 3 ∧ runBy c k s = .next t ∧ t.fsm = .idle ∧ t.rsp = s.rsp ++ [⟨commandOf q, w⟩]

/-- R185, R247: under the weak fairness that the spec assumes, every request that waits at some time of a run is
answered at a later one. -/
def Obligations.EveryWaitingRequestIsAnswered : Prop :=
  ∀ (c : Nat → Choice) (s : State), MachineInv s → WeaklyFair c s →
    ∀ k t q, runBy c k s = .next t → q ∈ t.pending →
      ∃ j u w, k < j ∧ runBy c j s = .next u ∧ ⟨commandOf q, w⟩ ∈ u.rsp.drop t.rsp.length
end

