-- ==== Sys2Proof/Laws/State.lean ====
section
/-!
SUPPORT. One lemma per field per update of the state, so that no proof unfolds a record update.
-/
namespace Sys2Proof.Machine

/-! `writeBr` -/

@[simp] theorem writeBr_br (s : State) (c : Nat) (v : Byte) : (writeBr s c v).br = s.br.set c v := rfl
@[simp] theorem writeBr_buf (s : State) (c : Nat) (v : Byte) : (writeBr s c v).buf = s.buf := rfl
@[simp] theorem writeBr_rpos (s : State) (c : Nat) (v : Byte) : (writeBr s c v).rpos = s.rpos := rfl
@[simp] theorem writeBr_fsm (s : State) (c : Nat) (v : Byte) : (writeBr s c v).fsm = s.fsm := rfl
@[simp] theorem writeBr_lock (s : State) (c : Nat) (v : Byte) : (writeBr s c v).lock = s.lock := rfl
@[simp] theorem writeBr_cfg (s : State) (c : Nat) (v : Byte) : (writeBr s c v).cfg = s.cfg := rfl
@[simp] theorem writeBr_role (s : State) (c : Nat) (v : Byte) : (writeBr s c v).role = s.role := rfl
@[simp] theorem writeBr_nameOf (s : State) (c : Nat) (v : Byte) : (writeBr s c v).nameOf = s.nameOf := rfl
@[simp] theorem writeBr_pending (s : State) (c : Nat) (v : Byte) : (writeBr s c v).pending = s.pending := rfl
@[simp] theorem writeBr_wire (s : State) (c : Nat) (v : Byte) : (writeBr s c v).wire = s.wire := rfl
@[simp] theorem writeBr_tenure (s : State) (c : Nat) (v : Byte) : (writeBr s c v).tenure = s.tenure := rfl
@[simp] theorem writeBr_rsp (s : State) (c : Nat) (v : Byte) : (writeBr s c v).rsp = s.rsp := rfl
@[simp] theorem writeBr_initStatus (s : State) (c : Nat) (v : Byte) : (writeBr s c v).initStatus = s.initStatus := rfl
@[simp] theorem writeBr_out (s : State) (c : Nat) (v : Byte) : (writeBr s c v).out = s.out := rfl
@[simp] theorem writeBr_port (s : State) (c : Nat) (v : Byte) : (writeBr s c v).port = s.port := rfl
@[simp] theorem writeBr_draws (s : State) (c : Nat) (v : Byte) : (writeBr s c v).draws = s.draws := rfl

/-! `answer` -/

@[simp] theorem answer_br (s : State) (q : Request) (w : Rsp) : (answer s q w).br = s.br := rfl
@[simp] theorem answer_buf (s : State) (q : Request) (w : Rsp) : (answer s q w).buf = s.buf := rfl
@[simp] theorem answer_rpos (s : State) (q : Request) (w : Rsp) : (answer s q w).rpos = s.rpos := rfl
@[simp] theorem answer_fsm (s : State) (q : Request) (w : Rsp) : (answer s q w).fsm = s.fsm := rfl
@[simp] theorem answer_lock (s : State) (q : Request) (w : Rsp) : (answer s q w).lock = s.lock := rfl
@[simp] theorem answer_cfg (s : State) (q : Request) (w : Rsp) : (answer s q w).cfg = s.cfg := rfl
@[simp] theorem answer_role (s : State) (q : Request) (w : Rsp) : (answer s q w).role = s.role := rfl
@[simp] theorem answer_nameOf (s : State) (q : Request) (w : Rsp) : (answer s q w).nameOf = s.nameOf := rfl
@[simp] theorem answer_pending (s : State) (q : Request) (w : Rsp) : (answer s q w).pending = s.pending := rfl
@[simp] theorem answer_wire (s : State) (q : Request) (w : Rsp) : (answer s q w).wire = s.wire := rfl
@[simp] theorem answer_tenure (s : State) (q : Request) (w : Rsp) : (answer s q w).tenure = s.tenure := rfl
@[simp] theorem answer_rsp (s : State) (q : Request) (w : Rsp) : (answer s q w).rsp = s.rsp ++ [⟨q, w⟩] := rfl
@[simp] theorem answer_initStatus (s : State) (q : Request) (w : Rsp) : (answer s q w).initStatus = s.initStatus := rfl
@[simp] theorem answer_out (s : State) (q : Request) (w : Rsp) : (answer s q w).out = s.out := rfl
@[simp] theorem answer_port (s : State) (q : Request) (w : Rsp) : (answer s q w).port = s.port := rfl
@[simp] theorem answer_draws (s : State) (q : Request) (w : Rsp) : (answer s q w).draws = s.draws := rfl

/-! `returns` -/

@[simp] theorem returns_br (s : State) (r : FnResult) : (returns s r).br = s.br := rfl
@[simp] theorem returns_buf (s : State) (r : FnResult) : (returns s r).buf = s.buf := rfl
@[simp] theorem returns_rpos (s : State) (r : FnResult) : (returns s r).rpos = s.rpos := rfl
@[simp] theorem returns_fsm (s : State) (r : FnResult) : (returns s r).fsm = s.fsm := rfl
@[simp] theorem returns_lock (s : State) (r : FnResult) : (returns s r).lock = s.lock := rfl
@[simp] theorem returns_cfg (s : State) (r : FnResult) : (returns s r).cfg = s.cfg := rfl
@[simp] theorem returns_role (s : State) (r : FnResult) : (returns s r).role = s.role := rfl
@[simp] theorem returns_nameOf (s : State) (r : FnResult) : (returns s r).nameOf = s.nameOf := rfl
@[simp] theorem returns_pending (s : State) (r : FnResult) : (returns s r).pending = s.pending := rfl
@[simp] theorem returns_wire (s : State) (r : FnResult) : (returns s r).wire = s.wire := rfl
@[simp] theorem returns_tenure (s : State) (r : FnResult) : (returns s r).tenure = s.tenure := rfl
@[simp] theorem returns_rsp (s : State) (r : FnResult) : (returns s r).rsp = s.rsp := rfl
@[simp] theorem returns_initStatus (s : State) (r : FnResult) : (returns s r).initStatus = s.initStatus := rfl
@[simp] theorem returns_out (s : State) (r : FnResult) : (returns s r).out = r := rfl
@[simp] theorem returns_port (s : State) (r : FnResult) : (returns s r).port = s.port := rfl
@[simp] theorem returns_draws (s : State) (r : FnResult) : (returns s r).draws = s.draws := rfl

/-! `constructFails` -/

@[simp] theorem constructFails_br (s : State) (e : InitStatus) : (constructFails s e).br = s.br := rfl
@[simp] theorem constructFails_buf (s : State) (e : InitStatus) : (constructFails s e).buf = s.buf := rfl
@[simp] theorem constructFails_rpos (s : State) (e : InitStatus) : (constructFails s e).rpos = s.rpos := rfl
@[simp] theorem constructFails_fsm (s : State) (e : InitStatus) : (constructFails s e).fsm = s.fsm := rfl
@[simp] theorem constructFails_lock (s : State) (e : InitStatus) : (constructFails s e).lock = s.lock := rfl
@[simp] theorem constructFails_cfg (s : State) (e : InitStatus) : (constructFails s e).cfg = s.cfg := rfl
@[simp] theorem constructFails_role (s : State) (e : InitStatus) : (constructFails s e).role = s.role := rfl
@[simp] theorem constructFails_nameOf (s : State) (e : InitStatus) : (constructFails s e).nameOf = s.nameOf := rfl
@[simp] theorem constructFails_pending (s : State) (e : InitStatus) : (constructFails s e).pending = s.pending := rfl
@[simp] theorem constructFails_wire (s : State) (e : InitStatus) : (constructFails s e).wire = s.wire := rfl
@[simp] theorem constructFails_tenure (s : State) (e : InitStatus) : (constructFails s e).tenure = s.tenure := rfl
@[simp] theorem constructFails_rsp (s : State) (e : InitStatus) : (constructFails s e).rsp = s.rsp := rfl
@[simp] theorem constructFails_initStatus (s : State) (e : InitStatus) : (constructFails s e).initStatus = e := rfl
@[simp] theorem constructFails_out (s : State) (e : InitStatus) : (constructFails s e).out = s.out := rfl
@[simp] theorem constructFails_port (s : State) (e : InitStatus) : (constructFails s e).port = s.port := rfl
@[simp] theorem constructFails_draws (s : State) (e : InitStatus) : (constructFails s e).draws = s.draws := rfl

/-! `beginTenure` -/

@[simp] theorem beginTenure_br (s : State) (c : Nat) (v : Byte) : (beginTenure s c v).br = s.br.set c v := rfl
@[simp] theorem beginTenure_buf (s : State) (c : Nat) (v : Byte) : (beginTenure s c v).buf = s.buf := rfl
@[simp] theorem beginTenure_rpos (s : State) (c : Nat) (v : Byte) : (beginTenure s c v).rpos = s.rpos := rfl
@[simp] theorem beginTenure_fsm (s : State) (c : Nat) (v : Byte) : (beginTenure s c v).fsm = .rendering := rfl
@[simp] theorem beginTenure_lock (s : State) (c : Nat) (v : Byte) : (beginTenure s c v).lock = .held := rfl
@[simp] theorem beginTenure_cfg (s : State) (c : Nat) (v : Byte) : (beginTenure s c v).cfg = s.cfg := rfl
@[simp] theorem beginTenure_role (s : State) (c : Nat) (v : Byte) : (beginTenure s c v).role = s.role := rfl
@[simp] theorem beginTenure_nameOf (s : State) (c : Nat) (v : Byte) : (beginTenure s c v).nameOf = s.nameOf := rfl
@[simp] theorem beginTenure_pending (s : State) (c : Nat) (v : Byte) : (beginTenure s c v).pending = s.pending := rfl
@[simp] theorem beginTenure_wire (s : State) (c : Nat) (v : Byte) : (beginTenure s c v).wire = s.wire := rfl
@[simp] theorem beginTenure_tenure (s : State) (c : Nat) (v : Byte) : (beginTenure s c v).tenure = some (.set c v) := rfl
@[simp] theorem beginTenure_rsp (s : State) (c : Nat) (v : Byte) : (beginTenure s c v).rsp = s.rsp := rfl
@[simp] theorem beginTenure_initStatus (s : State) (c : Nat) (v : Byte) : (beginTenure s c v).initStatus = s.initStatus := rfl
@[simp] theorem beginTenure_out (s : State) (c : Nat) (v : Byte) : (beginTenure s c v).out = s.out := rfl
@[simp] theorem beginTenure_port (s : State) (c : Nat) (v : Byte) : (beginTenure s c v).port = s.port := rfl
@[simp] theorem beginTenure_draws (s : State) (c : Nat) (v : Byte) : (beginTenure s c v).draws = s.draws := rfl

/-! `renderEnds` -/

@[simp] theorem renderEnds_br (s : State) : (renderEnds s).br = s.br := rfl
@[simp] theorem renderEnds_buf (s : State) : (renderEnds s).buf = s.buf := rfl
@[simp] theorem renderEnds_rpos (s : State) : (renderEnds s).rpos = s.rpos := rfl
@[simp] theorem renderEnds_fsm (s : State) : (renderEnds s).fsm = .transmitting := rfl
@[simp] theorem renderEnds_lock (s : State) : (renderEnds s).lock = s.lock := rfl
@[simp] theorem renderEnds_cfg (s : State) : (renderEnds s).cfg = s.cfg := rfl
@[simp] theorem renderEnds_role (s : State) : (renderEnds s).role = s.role := rfl
@[simp] theorem renderEnds_nameOf (s : State) : (renderEnds s).nameOf = s.nameOf := rfl
@[simp] theorem renderEnds_pending (s : State) : (renderEnds s).pending = s.pending := rfl
@[simp] theorem renderEnds_wire (s : State) : (renderEnds s).wire = s.wire := rfl
@[simp] theorem renderEnds_tenure (s : State) : (renderEnds s).tenure = s.tenure := rfl
@[simp] theorem renderEnds_rsp (s : State) : (renderEnds s).rsp = s.rsp := rfl
@[simp] theorem renderEnds_initStatus (s : State) : (renderEnds s).initStatus = s.initStatus := rfl
@[simp] theorem renderEnds_out (s : State) : (renderEnds s).out = s.out := rfl
@[simp] theorem renderEnds_port (s : State) : (renderEnds s).port = s.port := rfl
@[simp] theorem renderEnds_draws (s : State) : (renderEnds s).draws = s.draws := rfl

/-! `transmitFrame` -/

@[simp] theorem transmitFrame_br (s : State) (r : TxResult) : (transmitFrame s r).br = s.br := rfl
@[simp] theorem transmitFrame_buf (s : State) (r : TxResult) : (transmitFrame s r).buf = s.buf := rfl
@[simp] theorem transmitFrame_rpos (s : State) (r : TxResult) : (transmitFrame s r).rpos = s.rpos := rfl
@[simp] theorem transmitFrame_fsm (s : State) (r : TxResult) : (transmitFrame s r).fsm = s.fsm := rfl
@[simp] theorem transmitFrame_lock (s : State) (r : TxResult) : (transmitFrame s r).lock = s.lock := rfl
@[simp] theorem transmitFrame_cfg (s : State) (r : TxResult) : (transmitFrame s r).cfg = s.cfg := rfl
@[simp] theorem transmitFrame_role (s : State) (r : TxResult) : (transmitFrame s r).role = s.role := rfl
@[simp] theorem transmitFrame_nameOf (s : State) (r : TxResult) : (transmitFrame s r).nameOf = s.nameOf := rfl
@[simp] theorem transmitFrame_pending (s : State) (r : TxResult) : (transmitFrame s r).pending = s.pending := rfl
@[simp] theorem transmitFrame_wire (s : State) (r : TxResult) : (transmitFrame s r).wire = s.wire ++ [⟨snapshot s, r⟩] := rfl
@[simp] theorem transmitFrame_tenure (s : State) (r : TxResult) : (transmitFrame s r).tenure = s.tenure := rfl
@[simp] theorem transmitFrame_rsp (s : State) (r : TxResult) : (transmitFrame s r).rsp = s.rsp := rfl
@[simp] theorem transmitFrame_initStatus (s : State) (r : TxResult) : (transmitFrame s r).initStatus = s.initStatus := rfl
@[simp] theorem transmitFrame_out (s : State) (r : TxResult) : (transmitFrame s r).out = .tx r := rfl
@[simp] theorem transmitFrame_port (s : State) (r : TxResult) : (transmitFrame s r).port = s.port := rfl
@[simp] theorem transmitFrame_draws (s : State) (r : TxResult) : (transmitFrame s r).draws = s.draws + 1 := rfl

/-! `waits` -/

@[simp] theorem waits_br (s : State) (q : Request) : (waits s q).br = s.br := rfl
@[simp] theorem waits_buf (s : State) (q : Request) : (waits s q).buf = s.buf := rfl
@[simp] theorem waits_rpos (s : State) (q : Request) : (waits s q).rpos = s.rpos := rfl
@[simp] theorem waits_fsm (s : State) (q : Request) : (waits s q).fsm = s.fsm := rfl
@[simp] theorem waits_lock (s : State) (q : Request) : (waits s q).lock = s.lock := rfl
@[simp] theorem waits_cfg (s : State) (q : Request) : (waits s q).cfg = s.cfg := rfl
@[simp] theorem waits_role (s : State) (q : Request) : (waits s q).role = s.role := rfl
@[simp] theorem waits_nameOf (s : State) (q : Request) : (waits s q).nameOf = s.nameOf := rfl
@[simp] theorem waits_pending (s : State) (q : Request) : (waits s q).pending = s.pending ++ [q] := rfl
@[simp] theorem waits_wire (s : State) (q : Request) : (waits s q).wire = s.wire := rfl
@[simp] theorem waits_tenure (s : State) (q : Request) : (waits s q).tenure = s.tenure := rfl
@[simp] theorem waits_rsp (s : State) (q : Request) : (waits s q).rsp = s.rsp := rfl
@[simp] theorem waits_initStatus (s : State) (q : Request) : (waits s q).initStatus = s.initStatus := rfl
@[simp] theorem waits_out (s : State) (q : Request) : (waits s q).out = s.out := rfl
@[simp] theorem waits_port (s : State) (q : Request) : (waits s q).port = s.port := rfl
@[simp] theorem waits_draws (s : State) (q : Request) : (waits s q).draws = s.draws := rfl

/-! `arrivalsOf` -/

@[simp] theorem arrivalsOf_br (s : State) (qs : List Request) : (arrivalsOf qs s).br = s.br := rfl
@[simp] theorem arrivalsOf_buf (s : State) (qs : List Request) : (arrivalsOf qs s).buf = s.buf := rfl
@[simp] theorem arrivalsOf_rpos (s : State) (qs : List Request) : (arrivalsOf qs s).rpos = s.rpos := rfl
@[simp] theorem arrivalsOf_fsm (s : State) (qs : List Request) : (arrivalsOf qs s).fsm = s.fsm := rfl
@[simp] theorem arrivalsOf_lock (s : State) (qs : List Request) : (arrivalsOf qs s).lock = s.lock := rfl
@[simp] theorem arrivalsOf_cfg (s : State) (qs : List Request) : (arrivalsOf qs s).cfg = s.cfg := rfl
@[simp] theorem arrivalsOf_role (s : State) (qs : List Request) : (arrivalsOf qs s).role = s.role := rfl
@[simp] theorem arrivalsOf_nameOf (s : State) (qs : List Request) : (arrivalsOf qs s).nameOf = s.nameOf := rfl
@[simp] theorem arrivalsOf_pending (s : State) (qs : List Request) : (arrivalsOf qs s).pending = s.pending ++ qs := rfl
@[simp] theorem arrivalsOf_wire (s : State) (qs : List Request) : (arrivalsOf qs s).wire = s.wire := rfl
@[simp] theorem arrivalsOf_tenure (s : State) (qs : List Request) : (arrivalsOf qs s).tenure = s.tenure := rfl
@[simp] theorem arrivalsOf_rsp (s : State) (qs : List Request) : (arrivalsOf qs s).rsp = s.rsp := rfl
@[simp] theorem arrivalsOf_initStatus (s : State) (qs : List Request) : (arrivalsOf qs s).initStatus = s.initStatus := rfl
@[simp] theorem arrivalsOf_out (s : State) (qs : List Request) : (arrivalsOf qs s).out = s.out := rfl
@[simp] theorem arrivalsOf_port (s : State) (qs : List Request) : (arrivalsOf qs s).port = s.port := rfl
@[simp] theorem arrivalsOf_draws (s : State) (qs : List Request) : (arrivalsOf qs s).draws = s.draws + 1 := rfl

/-! `arrivals` -/

@[simp] theorem arrivals_br (s : State) : (arrivals s).br = s.br := rfl
@[simp] theorem arrivals_buf (s : State) : (arrivals s).buf = s.buf := rfl
@[simp] theorem arrivals_rpos (s : State) : (arrivals s).rpos = s.rpos := rfl
@[simp] theorem arrivals_fsm (s : State) : (arrivals s).fsm = s.fsm := rfl
@[simp] theorem arrivals_lock (s : State) : (arrivals s).lock = s.lock := rfl
@[simp] theorem arrivals_cfg (s : State) : (arrivals s).cfg = s.cfg := rfl
@[simp] theorem arrivals_role (s : State) : (arrivals s).role = s.role := rfl
@[simp] theorem arrivals_nameOf (s : State) : (arrivals s).nameOf = s.nameOf := rfl
@[simp] theorem arrivals_pending (s : State) : (arrivals s).pending = s.pending ++ Config.issued s.draws := rfl
@[simp] theorem arrivals_wire (s : State) : (arrivals s).wire = s.wire := rfl
@[simp] theorem arrivals_tenure (s : State) : (arrivals s).tenure = s.tenure := rfl
@[simp] theorem arrivals_rsp (s : State) : (arrivals s).rsp = s.rsp := rfl
@[simp] theorem arrivals_initStatus (s : State) : (arrivals s).initStatus = s.initStatus := rfl
@[simp] theorem arrivals_out (s : State) : (arrivals s).out = s.out := rfl
@[simp] theorem arrivals_port (s : State) : (arrivals s).port = s.port := rfl
@[simp] theorem arrivals_draws (s : State) : (arrivals s).draws = s.draws + 1 := rfl

/-! `takeGranted` -/

@[simp] theorem takeGranted_br (s : State) (g : Nat) : (takeGranted g s).br = s.br := rfl
@[simp] theorem takeGranted_buf (s : State) (g : Nat) : (takeGranted g s).buf = s.buf := rfl
@[simp] theorem takeGranted_rpos (s : State) (g : Nat) : (takeGranted g s).rpos = s.rpos := rfl
@[simp] theorem takeGranted_fsm (s : State) (g : Nat) : (takeGranted g s).fsm = s.fsm := rfl
@[simp] theorem takeGranted_lock (s : State) (g : Nat) : (takeGranted g s).lock = s.lock := rfl
@[simp] theorem takeGranted_cfg (s : State) (g : Nat) : (takeGranted g s).cfg = s.cfg := rfl
@[simp] theorem takeGranted_role (s : State) (g : Nat) : (takeGranted g s).role = s.role := rfl
@[simp] theorem takeGranted_nameOf (s : State) (g : Nat) : (takeGranted g s).nameOf = s.nameOf := rfl
@[simp] theorem takeGranted_pending (s : State) (g : Nat) : (takeGranted g s).pending = s.pending.eraseIdx (grantIndex g s) := rfl
@[simp] theorem takeGranted_wire (s : State) (g : Nat) : (takeGranted g s).wire = s.wire := rfl
@[simp] theorem takeGranted_tenure (s : State) (g : Nat) : (takeGranted g s).tenure = s.tenure := rfl
@[simp] theorem takeGranted_rsp (s : State) (g : Nat) : (takeGranted g s).rsp = s.rsp := rfl
@[simp] theorem takeGranted_initStatus (s : State) (g : Nat) : (takeGranted g s).initStatus = s.initStatus := rfl
@[simp] theorem takeGranted_out (s : State) (g : Nat) : (takeGranted g s).out = s.out := rfl
@[simp] theorem takeGranted_port (s : State) (g : Nat) : (takeGranted g s).port = s.port := rfl
@[simp] theorem takeGranted_draws (s : State) (g : Nat) : (takeGranted g s).draws = s.draws + 1 := rfl

/-! `hostDraw` -/

@[simp] theorem hostDraw_br (s : State) : (hostDraw s).br = s.br := rfl
@[simp] theorem hostDraw_buf (s : State) : (hostDraw s).buf = s.buf := rfl
@[simp] theorem hostDraw_rpos (s : State) : (hostDraw s).rpos = s.rpos := rfl
@[simp] theorem hostDraw_fsm (s : State) : (hostDraw s).fsm = s.fsm := rfl
@[simp] theorem hostDraw_lock (s : State) : (hostDraw s).lock = s.lock := rfl
@[simp] theorem hostDraw_cfg (s : State) : (hostDraw s).cfg = s.cfg := rfl
@[simp] theorem hostDraw_role (s : State) : (hostDraw s).role = s.role := rfl
@[simp] theorem hostDraw_nameOf (s : State) : (hostDraw s).nameOf = s.nameOf := rfl
@[simp] theorem hostDraw_pending (s : State) : (hostDraw s).pending = s.pending := rfl
@[simp] theorem hostDraw_wire (s : State) : (hostDraw s).wire = s.wire := rfl
@[simp] theorem hostDraw_tenure (s : State) : (hostDraw s).tenure = s.tenure := rfl
@[simp] theorem hostDraw_rsp (s : State) : (hostDraw s).rsp = s.rsp := rfl
@[simp] theorem hostDraw_initStatus (s : State) : (hostDraw s).initStatus = s.initStatus := rfl
@[simp] theorem hostDraw_out (s : State) : (hostDraw s).out = s.out := rfl
@[simp] theorem hostDraw_port (s : State) : (hostDraw s).port = s.port := rfl
@[simp] theorem hostDraw_draws (s : State) : (hostDraw s).draws = s.draws + 1 := rfl

/-! `renderPass` -/

@[simp] theorem renderPass_br (s : State) : (renderPass s).br = s.br := rfl
@[simp] theorem renderPass_fsm (s : State) : (renderPass s).fsm = s.fsm := rfl
@[simp] theorem renderPass_lock (s : State) : (renderPass s).lock = s.lock := rfl
@[simp] theorem renderPass_cfg (s : State) : (renderPass s).cfg = s.cfg := rfl
@[simp] theorem renderPass_role (s : State) : (renderPass s).role = s.role := rfl
@[simp] theorem renderPass_nameOf (s : State) : (renderPass s).nameOf = s.nameOf := rfl
@[simp] theorem renderPass_pending (s : State) : (renderPass s).pending = s.pending := rfl
@[simp] theorem renderPass_wire (s : State) : (renderPass s).wire = s.wire := rfl
@[simp] theorem renderPass_tenure (s : State) : (renderPass s).tenure = s.tenure := rfl
@[simp] theorem renderPass_rsp (s : State) : (renderPass s).rsp = s.rsp := rfl
@[simp] theorem renderPass_initStatus (s : State) : (renderPass s).initStatus = s.initStatus := rfl
@[simp] theorem renderPass_out (s : State) : (renderPass s).out = s.out := rfl
@[simp] theorem renderPass_port (s : State) : (renderPass s).port = s.port := rfl
@[simp] theorem renderPass_draws (s : State) : (renderPass s).draws = s.draws := rfl

/-! `constructed` -/

@[simp] theorem constructed_br (s : State) (p : Params) (leds : Nat) (order : List Char) : (constructed s p leds order).br = List.replicate (leds * Config.colorsPerLed) 0#8 := rfl
@[simp] theorem constructed_buf (s : State) (p : Params) (leds : Nat) (order : List Char) : (constructed s p leds order).buf = [] := rfl
@[simp] theorem constructed_rpos (s : State) (p : Params) (leds : Nat) (order : List Char) : (constructed s p leds order).rpos = startOfPass p.w := rfl
@[simp] theorem constructed_fsm (s : State) (p : Params) (leds : Nat) (order : List Char) : (constructed s p leds order).fsm = .idle := rfl
@[simp] theorem constructed_lock (s : State) (p : Params) (leds : Nat) (order : List Char) : (constructed s p leds order).lock = .free := rfl
@[simp] theorem constructed_cfg (s : State) (p : Params) (leds : Nat) (order : List Char) : (constructed s p leds order).cfg = cfgOf p leds order := rfl
@[simp] theorem constructed_role (s : State) (p : Params) (leds : Nat) (order : List Char) : (constructed s p leds order).role = (List.range (leds * Config.colorsPerLed)).map (roleAt order) := rfl
@[simp] theorem constructed_nameOf (s : State) (p : Params) (leds : Nat) (order : List Char) : (constructed s p leds order).nameOf = (List.range (leds * Config.colorsPerLed)).map fun i => Config.name (ledNumber i) (roleAt order i) := rfl
@[simp] theorem constructed_pending (s : State) (p : Params) (leds : Nat) (order : List Char) : (constructed s p leds order).pending = [] := rfl
@[simp] theorem constructed_wire (s : State) (p : Params) (leds : Nat) (order : List Char) : (constructed s p leds order).wire = [] := rfl
@[simp] theorem constructed_tenure (s : State) (p : Params) (leds : Nat) (order : List Char) : (constructed s p leds order).tenure = none := rfl
@[simp] theorem constructed_rsp (s : State) (p : Params) (leds : Nat) (order : List Char) : (constructed s p leds order).rsp = s.rsp := rfl
@[simp] theorem constructed_initStatus (s : State) (p : Params) (leds : Nat) (order : List Char) : (constructed s p leds order).initStatus = .ok := rfl
@[simp] theorem constructed_out (s : State) (p : Params) (leds : Nat) (order : List Char) : (constructed s p leds order).out = s.out := rfl
@[simp] theorem constructed_port (s : State) (p : Params) (leds : Nat) (order : List Char) : (constructed s p leds order).port = s.port := rfl
@[simp] theorem constructed_draws (s : State) (p : Params) (leds : Nat) (order : List Char) : (constructed s p leds order).draws = s.draws := rfl

/-! `removed` -/

@[simp] theorem removed_br (s : State) : (removed s).br = [] := rfl
@[simp] theorem removed_buf (s : State) : (removed s).buf = [] := rfl
@[simp] theorem removed_rpos (s : State) : (removed s).rpos = startOfPass 0 := rfl
@[simp] theorem removed_fsm (s : State) : (removed s).fsm = .unconstructed := rfl
@[simp] theorem removed_lock (s : State) : (removed s).lock = .free := rfl
@[simp] theorem removed_cfg (s : State) : (removed s).cfg = noCfg := rfl
@[simp] theorem removed_role (s : State) : (removed s).role = [] := rfl
@[simp] theorem removed_nameOf (s : State) : (removed s).nameOf = [] := rfl
@[simp] theorem removed_pending (s : State) : (removed s).pending = [] := rfl
@[simp] theorem removed_wire (s : State) : (removed s).wire = [] := rfl
@[simp] theorem removed_tenure (s : State) : (removed s).tenure = none := rfl
@[simp] theorem removed_rsp (s : State) : (removed s).rsp = s.rsp := rfl
@[simp] theorem removed_initStatus (s : State) : (removed s).initStatus = s.initStatus := rfl
@[simp] theorem removed_out (s : State) : (removed s).out = s.out := rfl
@[simp] theorem removed_port (s : State) : (removed s).port = s.port := rfl
@[simp] theorem removed_draws (s : State) : (removed s).draws = s.draws := rfl

/-! `endTenure` -/

@[simp] theorem endTenure_br (s : State) (r : TxResult) : (endTenure s r).br = s.br := by
  unfold endTenure; split <;> rfl
@[simp] theorem endTenure_buf (s : State) (r : TxResult) : (endTenure s r).buf = s.buf := by
  unfold endTenure; split <;> rfl
@[simp] theorem endTenure_rpos (s : State) (r : TxResult) : (endTenure s r).rpos = s.rpos := by
  unfold endTenure; split <;> rfl
@[simp] theorem endTenure_fsm (s : State) (r : TxResult) : (endTenure s r).fsm = .idle := by
  unfold endTenure; split <;> rfl
@[simp] theorem endTenure_lock (s : State) (r : TxResult) : (endTenure s r).lock = .free := by
  unfold endTenure; split <;> rfl
@[simp] theorem endTenure_cfg (s : State) (r : TxResult) : (endTenure s r).cfg = s.cfg := by
  unfold endTenure; split <;> rfl
@[simp] theorem endTenure_role (s : State) (r : TxResult) : (endTenure s r).role = s.role := by
  unfold endTenure; split <;> rfl
@[simp] theorem endTenure_nameOf (s : State) (r : TxResult) : (endTenure s r).nameOf = s.nameOf := by
  unfold endTenure; split <;> rfl
@[simp] theorem endTenure_pending (s : State) (r : TxResult) : (endTenure s r).pending = s.pending := by
  unfold endTenure; split <;> rfl
@[simp] theorem endTenure_wire (s : State) (r : TxResult) : (endTenure s r).wire = s.wire := by
  unfold endTenure; split <;> rfl
@[simp] theorem endTenure_tenure (s : State) (r : TxResult) : (endTenure s r).tenure = none := by
  unfold endTenure; split <;> rfl
@[simp] theorem endTenure_initStatus (s : State) (r : TxResult) : (endTenure s r).initStatus = s.initStatus := by
  unfold endTenure; split <;> rfl
@[simp] theorem endTenure_out (s : State) (r : TxResult) : (endTenure s r).out = s.out := by
  unfold endTenure; split <;> rfl
@[simp] theorem endTenure_port (s : State) (r : TxResult) : (endTenure s r).port = s.port := by
  unfold endTenure; split <;> rfl
@[simp] theorem endTenure_draws (s : State) (r : TxResult) : (endTenure s r).draws = s.draws := by
  unfold endTenure; split <;> rfl

/-- The caller of the tenure gets the response of its SET (R175 step 8). -/
@[simp] theorem endTenure_rsp (s : State) (r : TxResult) :
    (endTenure s r).rsp = s.rsp ++ (s.tenure.toList.map fun q => ⟨q, setRsp r⟩) := by
  unfold endTenure; split <;> simp [*, answer]

end Sys2Proof.Machine
end

