-- ==== Sys2Proof/Laws/Memory.lean ====
section
/-!
SUPPORT. The laws of the buffer as memory: read after write, and that every operation keeps the canonical form.
-/
namespace Sys2Proof.Machine

/-! The canonical form -/

theorem memWf_nil : memWf [] := ⟨List.Pairwise.nil, fun e he => absurd he (by simp)⟩

theorem memWf_tail {e : Host.Cell} {m : Memory} (h : memWf (e :: m)) : memWf m :=
  ⟨(List.pairwise_cons.1 h.1).2, fun x hx => h.2 x (List.mem_cons_of_mem _ hx)⟩

theorem memWf_cons {e : Host.Cell} {m : Memory} (hm : memWf m) (hv : e.2 ≠ unlistedByte)
    (hlt : ∀ x ∈ m, e.1 < x.1) : memWf (e :: m) :=
  ⟨List.pairwise_cons.2 ⟨hlt, hm.1⟩, List.forall_mem_cons.2 ⟨hv, hm.2⟩⟩

/-- Every address of the memory after a write was there before, or is the one written. -/
theorem mem_memWrite {m : Memory} {a : Nat} {v : Byte} {e : Host.Cell} (h : e ∈ memWrite m a v) :
    e = (a, v) ∨ e ∈ m := by
  induction m with
  | nil => unfold memWrite at h; split at h <;> simp_all
  | cons x rest ih =>
    obtain ⟨b, y⟩ := x
    unfold memWrite at h
    split at h
    · split at h <;> simp_all
    · split at h
      · split at h
        · exact .inr (List.mem_cons_of_mem _ h)
        · rcases List.mem_cons.1 h with h | h
          · exact .inl h
          · exact .inr (List.mem_cons_of_mem _ h)
      · rcases List.mem_cons.1 h with h | h
        · exact .inr (h ▸ List.mem_cons_self)
        · exact (ih h).imp_right (List.mem_cons_of_mem _)

/-- A write keeps the canonical form. -/
theorem memWrite_keeps_wf {m : Memory} (a : Nat) (v : Byte) (h : memWf m) : memWf (memWrite m a v) := by
  induction m with
  | nil => unfold memWrite; split; exacts [h, memWf_cons h ‹_› (by simp)]
  | cons x rest ih =>
    obtain ⟨b, y⟩ := x
    have hhead : ∀ x ∈ rest, b < x.1 := (List.pairwise_cons.1 h.1).1
    have hrest := memWf_tail h
    unfold memWrite
    split
    · split
      · exact h
      · refine memWf_cons h ‹_› fun x hx => ?_
        rcases List.mem_cons.1 hx with rfl | hx
        · assumption
        · have := hhead x hx
          show a < x.1
          omega
    · split
      · split
        · exact hrest
        · subst_vars
          exact memWf_cons hrest ‹_› hhead
      · refine memWf_cons (ih hrest) (h.2 _ List.mem_cons_self) fun x hx => ?_
        rcases mem_memWrite hx with rfl | hx
        · show b < a
          omega
        · exact hhead x hx

/-- A bit write keeps the canonical form. -/
theorem memBitWrite_keeps_wf {m : Memory} (a : Nat) (k : Fin 8) (b : Bool) (h : memWf m) :
    memWf (memBitWrite m a k b) :=
  memWrite_keeps_wf _ _ h

/-! Reading after a write -/

/-- An address that is not listed reads as unlisted. -/
theorem memRead_unlisted {m : Memory} {a : Nat} (h : ∀ x ∈ m, a ≠ x.1) : memRead m a = unlistedByte := by
  induction m with
  | nil => rfl
  | cons x rest ih =>
    obtain ⟨b, y⟩ := x
    unfold memRead
    rw [if_neg (h (b, y) List.mem_cons_self)]
    exact ih fun x hx => h x (List.mem_cons_of_mem _ hx)

/-- An address below every listed one reads as unlisted. -/
theorem memRead_below {m : Memory} {a : Nat} (h : ∀ x ∈ m, a < x.1) : memRead m a = unlistedByte :=
  memRead_unlisted fun x hx => (h x hx).ne

/-- The address written reads as the value written. -/
theorem memRead_memWrite_same {m : Memory} (a : Nat) (v : Byte) (h : memWf m) : memRead (memWrite m a v) a = v := by
  induction m with
  | nil => unfold memWrite; split <;> simp_all [memRead]
  | cons x rest ih =>
    obtain ⟨b, y⟩ := x
    have hhead : ∀ x ∈ rest, b < x.1 := (List.pairwise_cons.1 h.1).1
    unfold memWrite
    split
    · split
      · subst_vars
        refine memRead_below fun x hx => ?_
        rcases List.mem_cons.1 hx with rfl | hx
        · assumption
        · have := hhead x hx
          omega
      · simp [memRead]
    · split
      · split
        · subst_vars
          exact memRead_below hhead
        · simp [memRead]
      · unfold memRead
        rw [if_neg ‹_›]
        exact ih (memWf_tail h)

/-- Every other address reads as before. -/
theorem memRead_memWrite_other {m : Memory} {a a' : Nat} (v : Byte) (h : a' ≠ a) :
    memRead (memWrite m a v) a' = memRead m a' := by
  induction m with
  | nil => unfold memWrite; split <;> simp [memRead, h]
  | cons x rest ih =>
    obtain ⟨b, y⟩ := x
    unfold memWrite
    split
    · split
      · rfl
      · simp [memRead, h]
    · split
      · subst_vars
        split <;> simp [memRead, h]
      · simp only [memRead, ih]

/-- A memory in canonical form is decided by what it reads: two that read alike are equal. -/
theorem memory_ext {m m' : Memory} (h : memWf m) (h' : memWf m') (heq : ∀ a, memRead m a = memRead m' a) :
    m = m' := by
  induction m generalizing m' with
  | nil =>
    cases m' with
    | nil => rfl
    | cons x rest =>
      obtain ⟨b, y⟩ := x
      have := heq b
      simp only [memRead, if_true] at this
      exact absurd this.symm (h'.2 (b, y) List.mem_cons_self)
  | cons x rest ih =>
    obtain ⟨b, y⟩ := x
    have hhead : ∀ x ∈ rest, b < x.1 := (List.pairwise_cons.1 h.1).1
    cases m' with
    | nil =>
      have := heq b
      simp only [memRead, if_true] at this
      exact absurd this (h.2 (b, y) List.mem_cons_self)
    | cons x' rest' =>
      obtain ⟨b', y'⟩ := x'
      have hhead' : ∀ x ∈ rest', b' < x.1 := (List.pairwise_cons.1 h'.1).1
      have hb : b = b' := by
        rcases lt_trichotomy b b' with hlt | heq' | hlt
        · have h1 := heq b
          rw [memRead_below (m := (b', y') :: rest') (a := b)
            (by intro x hx; rcases List.mem_cons.1 hx with rfl | hx; exacts [hlt, by have := hhead' x hx; omega])] at h1
          simp only [memRead, if_true] at h1
          exact absurd h1 (h.2 (b, y) List.mem_cons_self)
        · exact heq'
        · have h1 := heq b'
          rw [memRead_below (m := (b, y) :: rest) (a := b')
            (by intro x hx; rcases List.mem_cons.1 hx with rfl | hx; exacts [hlt, by have := hhead x hx; omega])] at h1
          simp only [memRead, if_true] at h1
          exact absurd h1.symm (h'.2 (b', y') List.mem_cons_self)
      subst hb
      have hy : y = y' := by have := heq b; simpa [memRead] using this
      subst hy
      rw [ih (memWf_tail h) (memWf_tail h') fun a => ?_]
      rcases Nat.lt_trichotomy a b with hlt | rfl | hlt
      · rw [memRead_below fun x hx => by have := hhead x hx; omega,
          memRead_below fun x hx => by have := hhead' x hx; omega]
      · rw [memRead_below hhead, memRead_below hhead']
      · have := heq a
        simp only [memRead, if_neg (show ¬ a = b by omega)] at this
        exact this

/-! Bits -/

/-- Bit `i` of the byte of a bit write (R14). -/
theorem setBit_getLsbD (x : Byte) (k : Fin 8) (b : Bool) (i : Nat) (hi : i < 8) :
    (setBit x k b).getLsbD i = if i = k.val then b else x.getLsbD i := by
  have one : ∀ j, (1#8).getLsbD j = decide (j = 0) := fun j => by
    by_cases hj : j = 0 <;> simp [hj]
  simp only [setBit, BitVec.getLsbD_or, BitVec.getLsbD_and, BitVec.getLsbD_not, BitVec.getLsbD_shiftLeft]
  by_cases h : i = k.val
  · cases b <;> simp [h]
  · rcases Nat.lt_or_gt_of_ne h with hlt | hgt
    · simp [h, hlt, hi]
    · cases b <;> simp [h, hi, one, Nat.not_lt.2 hgt.le, Nat.sub_eq_zero_iff_le, Nat.not_le.2 hgt]

/-- The bus-bit at position `p` of a memory (R51). -/
def memBusBit (m : Memory) (p : Nat) : Bool := (memRead m (p / 8)).getLsbD (7 - p % 8)

/-- A bit write at the cursors of position `q` changes the bus-bit `q` and no other (R56). -/
theorem memBusBit_memBitWrite {m : Memory} (h : memWf m) (q p : Nat) (k : Fin 8) (hk : k.val = 7 - q % 8) (b : Bool) :
    memBusBit (memBitWrite m (q / 8) k b) p = if p = q then b else memBusBit m p := by
  unfold memBusBit memBitWrite
  by_cases hb : p / 8 = q / 8
  · rw [hb, memRead_memWrite_same _ _ h, setBit_getLsbD _ _ _ _ (by omega)]
    have : (7 - p % 8 = k.val) ↔ p = q := by rw [hk]; omega
    simp only [this]
  · rw [memRead_memWrite_other _ hb, if_neg (by rintro rfl; exact hb rfl)]

end Sys2Proof.Machine
end

