-- ==== Sys2Proof/Laws/Renderer.lean ====
section
/-!
SUPPORT. What the cursor walk of RENDER does: each loop writes a run of consecutive bus-bits and leaves every other one
alone (R135, R136).
-/
namespace Sys2Proof.Machine

theorem cursorAt_startOfPass (w : Nat) : CursorAt (startOfPass w) 0 := ⟨rfl, rfl⟩

/-- The cursor step goes to the next position (R133). -/
theorem cursorStep_next {r : RPos} {q : Nat} (h : CursorAt r q) : CursorAt (cursorStep r) (q + 1) := by
  obtain ⟨hb, hk⟩ := h
  unfold cursorStep CursorAt
  by_cases h0 : r.bitCur = 0
  · have : r.bitCur.val = 0 := by rw [h0]; rfl
    rw [if_pos h0]
    exact ⟨by show r.byteCur + 1 = _; omega, by show 7 = _; omega⟩
  · have hpos : 0 < r.bitCur.val := Nat.pos_of_ne_zero fun h => h0 (Fin.ext h)
    have hsub : (r.bitCur - 1).val = r.bitCur.val - 1 := Fin.val_sub_one_of_ne_zero h0
    rw [if_neg h0]
    exact ⟨by show r.byteCur = _; omega, by show (r.bitCur - 1).val = _; omega⟩

/-- From `p`, whose cursors stand at `q`, to `p'` the bus-bits `f 0 .. f (len-1)` were written at `q .. q+len-1` and
no other. -/
structure Wrote (p p' : Pass) (q len : Nat) (f : Nat → Bool) : Prop where
  cursor : CursorAt p'.rpos (q + len)
  memory : memWf p'.buf
  bits : ∀ x, memBusBit p'.buf x = if q ≤ x ∧ x < q + len then f (x - q) else memBusBit p.buf x

theorem Wrote.congr {p p' : Pass} {q len : Nat} {f g : Nat → Bool} (h : Wrote p p' q len f)
    (hfg : ∀ i, i < len → f i = g i) : Wrote p p' q len g :=
  ⟨h.cursor, h.memory, fun x => by
    rw [h.bits x]
    split
    · exact hfg _ (by omega)
    · rfl⟩

theorem Wrote.nil {p p' : Pass} {q : Nat} (hc : CursorAt p'.rpos q) (hm : memWf p'.buf) (hb : p'.buf = p.buf)
    (f : Nat → Bool) : Wrote p p' q 0 f :=
  ⟨hc, hm, fun x => by rw [if_neg (by omega), hb]⟩

/-- Two runs, one after the other. -/
theorem Wrote.append {p p₁ p₂ : Pass} {q l₁ l₂ : Nat} {f₁ f₂ : Nat → Bool} (h₁ : Wrote p p₁ q l₁ f₁)
    (h₂ : Wrote p₁ p₂ (q + l₁) l₂ f₂) :
    Wrote p p₂ q (l₁ + l₂) (fun i => if i < l₁ then f₁ i else f₂ (i - l₁)) :=
  ⟨by rw [← Nat.add_assoc]; exact h₂.cursor, h₂.memory, fun x => by
    rw [h₂.bits x, h₁.bits x]
    by_cases hx : q ≤ x ∧ x < q + l₁
    · rw [if_neg (by omega), if_pos hx, if_pos (by omega), if_pos (by omega)]
    · by_cases hx' : q + l₁ ≤ x ∧ x < q + l₁ + l₂
      · rw [if_pos hx', if_pos (by omega), if_neg (by omega), Nat.sub_sub]
      · rw [if_neg hx', if_neg hx, if_neg (by omega)]⟩

/-- The fields of the position other than the cursors do not matter to what is written. -/
theorem Wrote.of_same {p₀ p p' : Pass} {q len : Nat} {f : Nat → Bool}
    (h : Wrote p p' q len f) (hb : p.buf = p₀.buf) : Wrote p₀ p' q len f :=
  ⟨h.cursor, h.memory, fun x => by rw [h.bits x, hb]⟩

theorem putBit_wrote {p : Pass} {q : Nat} (hm : memWf p.buf) (hc : CursorAt p.rpos q) (b : Bool) :
    Wrote p (putBit p b) q 1 (fun _ => b) :=
  ⟨cursorStep_next hc, memBitWrite_keeps_wf _ _ _ hm, fun x => by
    show memBusBit (memBitWrite p.buf p.rpos.byteCur p.rpos.bitCur b) x = _
    rw [hc.1, memBusBit_memBitWrite hm q x _ hc.2]
    by_cases hx : x = q
    · rw [if_pos hx, if_pos (by omega)]
    · rw [if_neg hx, if_neg (by omega)]⟩

/-- A symbol is written most significant sub-bit first (R120). -/
theorem putSymbol_wrote (y : Nat) (t : Nat) {p : Pass} {q : Nat} (hm : memWf p.buf) (hc : CursorAt p.rpos q) :
    Wrote p (putSymbol y t p) q t (fun u => subBit y (t - 1 - u)) := by
  induction t generalizing p q with
  | zero => exact .nil hc hm rfl _
  | succ t ih =>
    have h₁ : Wrote p (putBit { p with rpos := { p.rpos with sb := t } } (subBit y t)) q 1 fun _ => subBit y t :=
      (putBit_wrote (p := { p with rpos := { p.rpos with sb := t } }) hm hc _).of_same rfl
    have h := h₁.append (ih h₁.memory h₁.cursor)
    rw [Nat.add_comm 1 t] at h
    refine h.congr fun i _ => ?_
    rcases Nat.eq_zero_or_pos i with rfl | hi
    · simp
    · rw [if_neg (by omega)]
      congr 1
      omega

/-- A byte is written most significant bit first, each bit as its symbol (R132). -/
theorem putByte_wrote (c : Params) (v : Byte) (j : Nat) {p : Pass} {q : Nat} (hm : memWf p.buf)
    (hc : CursorAt p.rpos q) :
    Wrote p (putByte c v j p) q (j * c.w)
      (fun i => subBit (encodeBit c (logicalBit v (j - 1 - i / c.w))) (c.w - 1 - i % c.w)) := by
  induction j generalizing p q with
  | zero => rw [Nat.zero_mul]; exact .nil hc hm rfl _
  | succ j ih =>
    have h₁ := (putSymbol_wrote (encodeBit c (logicalBit v j)) c.w
      (p := { p with rpos := { p.rpos with lb := Fin.ofNat 8 j } }) hm hc).of_same (p₀ := p) rfl
    have h := h₁.append (ih h₁.memory h₁.cursor)
    rw [show c.w + j * c.w = (j + 1) * c.w by ring] at h
    refine h.congr fun i hi => ?_
    by_cases hlt : i < c.w
    · simp only [if_pos hlt, Nat.div_eq_of_lt hlt, Nat.mod_eq_of_lt hlt]
      congr 4
    · have hw : 0 < c.w := Nat.pos_of_ne_zero fun h0 => by simp [h0] at hi
      have hge : c.w ≤ i := Nat.le_of_not_lt hlt
      have hmod : (i - c.w) % c.w = i % c.w := (Nat.mod_eq_sub_mod hge).symm
      have hdiv : i / c.w = (i - c.w) / c.w + 1 := by rw [Nat.div_eq_sub_div hw hge]
      have hbit : j + 1 - 1 - ((i - c.w) / c.w + 1) = j - 1 - (i - c.w) / c.w := by
        generalize (i - c.w) / c.w = d
        omega
      simp only [if_neg hlt, hmod, hdiv, hbit]

/-- The registers are written in index order (R131): the closed form of the whole walk (R136). -/
theorem putChannels_wrote (c : Params) (k : Nat) (br : List Byte) {p : Pass} {q : Nat} (hm : memWf p.buf)
    (hc : CursorAt p.rpos q) :
    Wrote p (putChannels c k br p) q (8 * br.length * c.w)
      (fun i => subBit (encodeBit c (logicalBit (br.getD (i / c.w / 8) 0#8) (7 - i / c.w % 8))) (c.w - 1 - i % c.w)) := by
  induction br generalizing p q k with
  | nil => rw [show 8 * ([] : List Byte).length * c.w = 0 by simp]; exact .nil hc hm rfl _
  | cons v rest ih =>
    have h₁ := (putByte_wrote c v 8 (p := { p with rpos := { p.rpos with ch := k } }) hm hc).of_same (p₀ := p) rfl
    have h := h₁.append (ih (k + 1) h₁.memory h₁.cursor)
    rw [show 8 * c.w + 8 * rest.length * c.w = 8 * (v :: rest).length * c.w by
      rw [List.length_cons]; ring] at h
    refine h.congr fun i hi => ?_
    have hw : 0 < c.w := Nat.pos_of_ne_zero fun h0 => by simp [h0] at hi
    by_cases hlt : i < 8 * c.w
    · have h8 : i / c.w < 8 := (Nat.div_lt_iff_lt_mul hw).2 hlt
      simp only [if_pos hlt, Nat.div_eq_of_lt h8, Nat.mod_eq_of_lt h8, List.getD_cons_zero]
    · obtain ⟨m, rfl⟩ : ∃ m, i = 8 * c.w + m := ⟨i - 8 * c.w, by omega⟩
      have hdiv : (8 * c.w + m) / c.w = 8 + m / c.w := by
        rw [Nat.add_comm, Nat.add_mul_div_right _ _ hw, Nat.add_comm]
      have hmod : (8 * c.w + m) % c.w = m % c.w := by simp
      have hch : (8 + m / c.w) / 8 = m / c.w / 8 + 1 := by omega
      have hbit : (8 + m / c.w) % 8 = m / c.w % 8 := by omega
      simp only [if_neg hlt, Nat.add_sub_cancel_left, hdiv, hmod, hch, hbit, List.getD_cons_succ]

/-! Where the loop counters stand after each loop (R23) -/

theorem cursorStep_counters (r : RPos) :
    (cursorStep r).ch = r.ch ∧ (cursorStep r).lb = r.lb ∧ (cursorStep r).sb = r.sb := by
  unfold cursorStep; split <;> exact ⟨rfl, rfl, rfl⟩

theorem putSymbol_counters (y t : Nat) (p : Pass) :
    (putSymbol y t p).rpos.ch = p.rpos.ch ∧ (putSymbol y t p).rpos.lb = p.rpos.lb ∧
      (putSymbol y t p).rpos.sb = if t = 0 then p.rpos.sb else 0 := by
  induction t generalizing p with
  | zero => exact ⟨rfl, rfl, rfl⟩
  | succ t ih =>
    have hs := cursorStep_counters { p.rpos with sb := t }
    obtain ⟨h₁, h₂, h₃⟩ := ih (putBit { p with rpos := { p.rpos with sb := t } } (subBit y t))
    refine ⟨h₁.trans hs.1, h₂.trans hs.2.1, h₃.trans ?_⟩
    rw [if_neg (Nat.succ_ne_zero t)]
    split
    · next h0 => exact hs.2.2.trans h0
    · rfl

theorem putByte_counters (c : Params) (v : Byte) (j : Nat) (p : Pass) (hw : 0 < c.w) :
    (putByte c v j p).rpos.ch = p.rpos.ch ∧
      (putByte c v j p).rpos.lb = (if j = 0 then p.rpos.lb else 0) ∧
        (putByte c v j p).rpos.sb = if j = 0 then p.rpos.sb else 0 := by
  induction j generalizing p with
  | zero => exact ⟨rfl, rfl, rfl⟩
  | succ j ih =>
    have hs := putSymbol_counters (encodeBit c (logicalBit v j)) c.w
      { p with rpos := { p.rpos with lb := Fin.ofNat 8 j } }
    obtain ⟨h₁, h₂, h₃⟩ := ih (putSymbol (encodeBit c (logicalBit v j)) c.w
      { p with rpos := { p.rpos with lb := Fin.ofNat 8 j } })
    rw [if_neg hw.ne'] at hs
    refine ⟨h₁.trans hs.1, h₂.trans ?_, h₃.trans ?_⟩ <;> rw [if_neg (Nat.succ_ne_zero j)] <;> split
    · next h0 => subst h0; exact hs.2.1
    · rfl
    · exact hs.2.2
    · rfl

/-- After the last bit write the counters hold the last channel, bit 0, sub-bit 0. -/
theorem putChannels_counters (c : Params) (k : Nat) (br : List Byte) (p : Pass) (hw : 0 < c.w) (hne : br ≠ []) :
    (putChannels c k br p).rpos.ch = k + br.length - 1 ∧ (putChannels c k br p).rpos.lb = 0 ∧
      (putChannels c k br p).rpos.sb = 0 := by
  induction br generalizing p k with
  | nil => exact absurd rfl hne
  | cons v rest ih =>
    have hs := putByte_counters c v 8 { p with rpos := { p.rpos with ch := k } } hw
    simp only [if_neg (by decide : ¬ (8 = 0))] at hs
    cases rest with
    | nil => exact ⟨hs.1.trans (by simp), hs.2⟩
    | cons v' rest' =>
      obtain ⟨h₁, h₂⟩ := ih (k + 1) (putByte c v 8 { p with rpos := { p.rpos with ch := k } }) (by simp)
      refine ⟨h₁.trans ?_, h₂⟩
      simp only [List.length_cons]
      omega

/-! The pass -/

/-- What one render pass does to the buffer: positions below `8*N*W` carry FRAME's bits, every other bus-bit is as it
was, and the memory keeps its form (R136, R140). -/
theorem renderPass_spec {s : State} (hm : memWf s.buf) (hl : s.br.length = s.cfg.n) :
    CursorAt (renderPass s).rpos (8 * s.cfg.n * s.cfg.params.w) ∧ memWf (renderPass s).buf ∧
      ∀ x, memBusBit (renderPass s).buf x =
        if x < 8 * s.cfg.n * s.cfg.params.w then frameBit s.cfg s.br x else memBusBit s.buf x := by
  have h := putChannels_wrote s.cfg.params 0 s.br (p := { buf := s.buf, rpos := startOfPass s.cfg.params.w }) hm
    (cursorAt_startOfPass _)
  rw [hl] at h
  refine ⟨by rw [← Nat.zero_add (8 * _ * _)]; exact h.cursor, h.memory, fun x => ?_⟩
  refine (h.bits x).trans ?_
  by_cases hx : x < 8 * s.cfg.n * s.cfg.params.w
  · rw [if_pos (by omega), if_pos hx, frameBit, if_pos hx, Nat.sub_zero]
  · rw [if_neg (by omega), if_neg hx]

end Sys2Proof.Machine
end

