-- ==== Sys2Proof/Laws/Ops.lean ====
section
/-!
SUPPORT. What each shared operation and each meaning can do, said once: when it answers a next state, and which.
-/
namespace Sys2Proof.Machine

theorem whenConstructed_next {s t : State} {k : Host.Outcome State Fault Refusal} :
    whenConstructed s k = .next t ↔ s.fsm ≠ .unconstructed ∧ k = .next t := by
  unfold whenConstructed; split <;> simp_all

theorem whenDeviceOk_next {s t : State} {k : Host.Outcome State Fault Refusal} :
    whenDeviceOk s k = .next t ↔ deviceOk s = true ∧ k = .next t := by
  unfold whenDeviceOk; split <;> simp_all

theorem deviceOk_iff {s : State} :
    deviceOk s = true ↔ s.br.length = s.cfg.n ∧ s.cfg.n * s.cfg.params.w ≤ s.cfg.s := by
  simp [deviceOk, Cfg.wfSize]

theorem validIndex_iff {s : State} {c : Nat} : validIndex s c = true ↔ c < s.cfg.n := by
  simp [validIndex]

/-- The closed form of BUFSIZE's sum (R101): the display bits are whole bytes. -/
theorem bufSize_split (p : Params) (n : Nat) : bufSize p n = n * p.w + p.resetBits / 8 + p.trailerBytes := by
  have : n * 8 * p.w + p.resetBits = p.resetBits + n * p.w * 8 := by ring
  rw [bufSize, this, Nat.add_mul_div_right _ _ (by decide), Nat.add_comm (p.resetBits / 8)]

/-- A Device of the sizes of LENGTH_OK passes the size check (R139). -/
theorem deviceOk_of_lengthOk {s : State} (h : LengthOk s) : deviceOk s = true := by
  rw [deviceOk_iff, h.1, bufSize_split]
  exact ⟨h.2, by omega⟩

theorem badCommand_next {q : Request} {s t : State} :
    badCommand q s = .next t ↔ s.fsm ≠ .unconstructed ∧ t = answer s q (rspWord statusBadCommand 0#8) := by
  rw [badCommand, whenConstructed_next, Host.Outcome.next.injEq, eq_comm (a := answer _ _ _)]

theorem execGet_next {c : Nat} {s t : State} :
    execGet c s = .next t ↔ s.fsm ≠ .unconstructed ∧
      ((s.fsm = .idle ∧ c < s.cfg.n ∧ deviceOk s = true ∧ t = answer s (.get c) (rspWord statusOk (readBr s c))) ∨
        (s.fsm = .idle ∧ ¬ c < s.cfg.n ∧ t = answer s (.get c) (rspWord statusBadIndex 0#8)) ∨
        (s.fsm ≠ .idle ∧ t = waits s (.get c))) := by
  rw [execGet, whenConstructed_next]
  refine and_congr_right fun _ => ?_
  by_cases hi : s.fsm = .idle <;> by_cases hc : c < s.cfg.n <;>
    simp [hi, hc, validIndex_iff, whenDeviceOk_next, @eq_comm State t]

theorem execSet_next {c : Nat} {v : Byte} {s t : State} :
    execSet c v s = .next t ↔ s.fsm ≠ .unconstructed ∧
      ((c < s.cfg.n ∧ s.lock = .free ∧ deviceOk s = true ∧ t = runTenure s c v (nextTxResult s)) ∨
        (c < s.cfg.n ∧ s.lock ≠ .free ∧ t = waits s (.set c v)) ∨
        (¬ c < s.cfg.n ∧ t = answer s (.set c v) (rspWord statusBadIndex 0#8))) := by
  rw [execSet, whenConstructed_next]
  refine and_congr_right fun _ => ?_
  by_cases hl : s.lock = .free <;> by_cases hc : c < s.cfg.n <;>
    simp [hl, hc, validIndex_iff, whenDeviceOk_next, @eq_comm State t]

theorem execRender_next {s t : State} :
    execRender s = .next t ↔ s.fsm = .rendering ∧ deviceOk s = true ∧ t = renderPass s := by
  rw [execRender, whenConstructed_next]
  by_cases hf : s.fsm = .rendering <;> simp [hf, whenDeviceOk_next, @eq_comm State t]

theorem execTransmit_next {s t : State} :
    execTransmit s = .next t ↔ s.fsm = .transmitting ∧ t = transmitFrame s (nextTxResult s) := by
  rw [execTransmit, whenConstructed_next]
  by_cases hf : s.fsm = .transmitting <;> simp [hf, @eq_comm State t]

theorem execTeardown_next {s t : State} :
    execTeardown s = .next t ↔ s.fsm = .idle ∧ s.pending = [] ∧ t = removed s := by
  rw [execTeardown, whenConstructed_next]
  by_cases hf : s.fsm = .idle <;> by_cases hp : s.pending = [] <;> simp [hf, hp, @eq_comm State t]

theorem execBufsize_next {n : Nat} {s t : State} :
    execBufsize n s = .next t ↔
      s.fsm ≠ .unconstructed ∧ 0 < n ∧ t = returns s (.size (bufSize s.cfg.params n)) := by
  rw [execBufsize, whenConstructed_next]
  by_cases hn : n = 0 <;> simp [hn, @eq_comm State t, Nat.pos_iff_ne_zero]

theorem execEncode_next {b : Bool} {s t : State} :
    execEncode b s = .next t ↔
      s.fsm ≠ .unconstructed ∧ t = returns s (.symbol (encodeBit s.cfg.params b)) := by
  rw [execEncode, whenConstructed_next]; simp [@eq_comm State t]

theorem execSym0_next {s t : State} :
    execSym0 s = .next t ↔ s.fsm ≠ .unconstructed ∧ t = returns s (.symbol s.cfg.params.sym0) := by
  rw [execSym0, whenConstructed_next]; simp [@eq_comm State t, encodeBit]

theorem execSym1_next {s t : State} :
    execSym1 s = .next t ↔ s.fsm ≠ .unconstructed ∧ t = returns s (.symbol s.cfg.params.sym1) := by
  rw [execSym1, whenConstructed_next]; simp [@eq_comm State t, encodeBit]

theorem execDecode_next {buf : List Byte} {n : Nat} {s t : State} :
    execDecode buf n s = .next t ↔ s.fsm ≠ .unconstructed ∧ n * s.cfg.params.w ≤ buf.length ∧
      t = returns s (.decoded (decodeFrame s.cfg.params buf n)) := by
  rw [execDecode, whenConstructed_next]
  by_cases hl : buf.length < n * s.cfg.params.w
  · simp [hl, Nat.not_le.2 hl]
  · simp [hl, Nat.not_lt.1 hl, @eq_comm State t]

theorem execConstruct_next {p : Params} {led : Option Int} {order : Option (List Char)} {s t : State} :
    execConstruct p led order s = .next t → s.fsm = .unconstructed ∧
      ((∃ e, t = constructFails s e) ∨
        (0 < ledCountOf led ∧ lettersKnown (colorOrderOf order) = true ∧ encodable p = true ∧
          t = constructed s p (ledCountOf led).toNat (colorOrderOf order))) := by
  intro h
  unfold execConstruct at h
  split at h
  · refine ⟨‹_›, ?_⟩
    split at h
    · exact .inl ⟨_, by simpa [@eq_comm State t] using h⟩
    split at h
    · exact .inl ⟨_, by simpa [@eq_comm State t] using h⟩
    split at h
    · simp at h
    split at h
    · exact .inl ⟨_, by simpa [@eq_comm State t] using h⟩
    · refine .inr ⟨by omega, ?_, ?_, by simpa [@eq_comm State t] using h⟩ <;> simp_all
  · simp at h

/-- A request asks for a SET, for a GET, or is a reserved word (R86 to R89). -/
theorem decodeRequest_cases (q : Request) :
    (∃ c v, decodeRequest q = .ok (.set c v)) ∨ (∃ c, decodeRequest q = .ok (.get c)) ∨
      ∃ e, decodeRequest q = .error e := by
  cases q with
  | word w =>
    simp only [decodeRequest, decodeCommand]
    split
    · exact .inl ⟨_, _, rfl⟩
    · split
      · split
        · exact .inr (.inl ⟨_, rfl⟩)
        · exact .inr (.inr ⟨_, rfl⟩)
      · exact .inr (.inr ⟨_, rfl⟩)
  | set c v => exact .inl ⟨_, _, rfl⟩
  | get c => exact .inr (.inl ⟨_, rfl⟩)

/-- The machine's step is the step of the relation at the choice drawn. -/
theorem step_eq_nextStepBy (s : State) : step s = nextStepBy (drawn s) s := rfl

/-- A step that starts a request serves it, with the request taken out of PENDING. -/
theorem nextStepBy_of_starts {c : Choice} {s : State} {q : Request} (h : Starts c s q) :
    nextStepBy c s = serve q (takeGranted c.granted (arrivalsOf c.issued s)) := by
  obtain ⟨hp, hf, hq⟩ := h
  simp only [nextStepBy, hp, hf, idleMove, hq]

/-- Every case in which a step with the choice `c` answers a next state. -/
theorem nextStepBy_cases {c : Choice} {s t : State} (h : nextStepBy c s = .next t) :
    (∃ i, exec i { s with port := none } = .next t) ∨
    (∃ q, badCommand q { s with port := none } = .next t) ∨
    (s.port = none ∧ s.fsm = .unconstructed ∧ hostMove s = .next t) ∨
    (s.port = none ∧ s.fsm = .idle ∧ idleMove c.granted (arrivalsOf c.issued s) = .next t) ∨
    (s.port = none ∧ s.fsm = .rendering ∧ deviceOk s = true ∧ t = renderEnds (renderPass (arrivalsOf c.issued s))) ∨
    (s.port = none ∧ s.fsm = .transmitting ∧
      t = endTenure (transmitFrame (arrivalsOf c.issued s) (nextTxResult (arrivalsOf c.issued s)))
        (nextTxResult (arrivalsOf c.issued s))) := by
  unfold nextStepBy at h
  split at h
  · next f _ =>
    unfold runPort at h
    split at h
    · exact .inl ⟨_, h⟩
    · split at h
      · exact .inr (.inl ⟨_, h⟩)
      · rw [whenConstructed_next] at h
        exact absurd h.2 (by simp)
  · next hp =>
    split at h
    · next hf => exact .inr (.inr (.inl ⟨hp, hf, h⟩))
    · next hf => exact .inr (.inr (.inr (.inl ⟨hp, hf, h⟩)))
    · next hf =>
      refine .inr (.inr (.inr (.inr (.inl ⟨hp, hf, ?_⟩))))
      unfold renderingMove at h
      split at h
      · next s' he =>
        obtain ⟨_, hd, rfl⟩ := execRender_next.1 he
        exact ⟨hd, (Host.Outcome.next.inj h).symm⟩
      all_goals simp at h
    · next hf =>
      refine .inr (.inr (.inr (.inr (.inr ⟨hp, hf, ?_⟩))))
      unfold transmittingMove at h
      split at h
      · next s' he =>
        obtain ⟨_, rfl⟩ := execTransmit_next.1 he
        exact (Host.Outcome.next.inj h).symm
      all_goals simp at h

/-- Every case in which Idle answers a next state: a tenure begins, a command is answered, or nothing waits. -/
theorem idleMove_cases {g : Nat} {s t : State} (h : idleMove g s = .next t) :
    (∃ c v, mayBegin (takeGranted g s) c = true ∧ t = beginTenure (takeGranted g s) c v) ∨
    (∃ i, exec i (takeGranted g s) = .next t) ∨
    (∃ q, badCommand q (takeGranted g s) = .next t) ∨
    hostMove s = .next t := by
  unfold idleMove at h
  split at h
  · next q _ =>
    unfold serve at h
    split at h
    · split at h
      · exact .inl ⟨_, _, ‹_›, (Host.Outcome.next.inj h).symm⟩
      · exact .inr (.inl ⟨_, h⟩)
    · exact .inr (.inl ⟨_, h⟩)
    · exact .inr (.inr (.inl ⟨_, h⟩))
  · exact .inr (.inr (.inr h))

/-- Every case of the host's move. -/
theorem hostMove_cases {s t : State} (h : hostMove s = .next t) :
    (∃ i, exec i (hostDraw s) = .next t) ∨ t = hostDraw s := by
  unfold hostMove at h
  split at h
  · exact .inl ⟨_, h⟩
  · exact .inl ⟨_, h⟩
  · exact .inr (Host.Outcome.next.inj h).symm

/-! The whole tenure, field by field -/

section Tenure
variable (s : State) (c : Nat) (v : Byte) (r : TxResult)

@[simp] theorem runTenure_br : (runTenure s c v r).br = s.br.set c v := by simp [runTenure]
@[simp] theorem runTenure_buf : (runTenure s c v r).buf = (renderPass (beginTenure s c v)).buf := by simp [runTenure]
@[simp] theorem runTenure_rpos : (runTenure s c v r).rpos = (renderPass (beginTenure s c v)).rpos := by simp [runTenure]
@[simp] theorem runTenure_fsm : (runTenure s c v r).fsm = .idle := by simp [runTenure]
@[simp] theorem runTenure_lock : (runTenure s c v r).lock = .free := by simp [runTenure]
@[simp] theorem runTenure_cfg : (runTenure s c v r).cfg = s.cfg := by simp [runTenure]
@[simp] theorem runTenure_role : (runTenure s c v r).role = s.role := by simp [runTenure]
@[simp] theorem runTenure_nameOf : (runTenure s c v r).nameOf = s.nameOf := by simp [runTenure]
@[simp] theorem runTenure_pending : (runTenure s c v r).pending = s.pending := by simp [runTenure]
@[simp] theorem runTenure_tenure : (runTenure s c v r).tenure = none := by simp [runTenure]
@[simp] theorem runTenure_rsp : (runTenure s c v r).rsp = s.rsp ++ [⟨.set c v, setRsp r⟩] := by simp [runTenure]
@[simp] theorem runTenure_initStatus : (runTenure s c v r).initStatus = s.initStatus := by simp [runTenure]
@[simp] theorem runTenure_out : (runTenure s c v r).out = .tx r := by simp [runTenure]
@[simp] theorem runTenure_port : (runTenure s c v r).port = s.port := by simp [runTenure]
@[simp] theorem runTenure_draws : (runTenure s c v r).draws = s.draws + 1 := by simp [runTenure]

/-- The snapshot depends on the buffer and its length only. -/
theorem snapshot_congr {s t : State} (hb : s.buf = t.buf) (hc : s.cfg = t.cfg) : snapshot s = snapshot t := by
  unfold snapshot; rw [hb, hc]

/-- The frame that goes onto WIRE is the buffer the tenure leaves (R66, R189). -/
@[simp] theorem runTenure_wire : (runTenure s c v r).wire = s.wire ++ [⟨snapshot (runTenure s c v r), r⟩] := by
  have : snapshot (renderEnds (renderPass (beginTenure s c v))) = snapshot (runTenure s c v r) :=
    snapshot_congr (by simp) (by simp)
  rw [← this]; simp [runTenure]

end Tenure

end Sys2Proof.Machine
end

