-- ==== Sys2Proof/Laws/PerInstr.lean ====
section
/-!
SUPPORT. Statements for all instructions, made per instruction: an instruction has a command word exactly where its row
of spec/opcode_table.json has a mask, and the word matches that row (R87, R88, R94).
-/
namespace Sys2Proof.Laws.WordMatchesRow

/-- The mask and the match of an instruction's row; none for a symbol row and for an internal row, whose mask is zero. -/
def rowOf : Instr → Option (Word × Word)
  | .set _ _ => some (0xF0000000#32, 0x10000000#32)
  | .get _ => some (0xF00000FF#32, 0x20000000#32)
  | .sym0 => none
  | .sym1 => none
  | .bufsize _ => none
  | .encode _ => none
  | .render => none
  | .decode _ _ => none
  | .transmit => none
  | .construct _ _ _ => none
  | .teardown => none

def Statement (i : Instr) : Prop :=
  ∀ p : Params,
    (∀ mask value, rowOf i = some (mask, value) → ∃ w, encode p i = some (.command w) ∧ w &&& mask = value) ∧
    (rowOf i = none → ∀ w, encode p i ≠ some (.command w))

theorem commandWord_row (op : BitVec 4) (c : Nat) (v : Byte) :
    commandWord op c v &&& 0xF0000000#32 = op ++ 0#28 := by
  have : (0xF0000000#32) = 0xF#4 ++ 0#20 ++ 0#8 := by decide
  rw [commandWord, this, BitVec.and_append, BitVec.and_append]
  ext i hi
  simp only [BitVec.getElem_append]
  have hop : op &&& 0xF#4 = op := by revert op; decide
  split
  · rw [dif_pos (by omega)]; simp
  · split
    · rw [dif_pos (by omega)]; simp
    · rw [dif_neg (by omega), hop]; congr 1

theorem commandWord_row_val (op : BitVec 4) (c : Nat) :
    commandWord op c 0#8 &&& 0xF00000FF#32 = op ++ 0#28 := by
  rw [← commandWord_row op c 0#8]
  have : commandWord op c 0#8 &&& 0xFF#32 = 0#32 := by
    rw [show (0xFF#32) = 0#4 ++ 0#20 ++ 0xFF#8 by decide, commandWord, BitVec.and_append, BitVec.and_append,
      BitVec.and_zero, BitVec.and_zero, BitVec.zero_and]
    decide
  rw [show (0xF00000FF#32) = 0xF0000000#32 ||| 0xFF#32 by decide, BitVec.and_or_distrib_left, this, BitVec.or_zero]

theorem set (c : Nat) (v : Byte) : Statement (.set c v) := fun p =>
  ⟨fun mask value h => by
    obtain ⟨rfl, rfl⟩ : 0xF0000000#32 = mask ∧ 0x10000000#32 = value := by simpa [rowOf] using h
    exact ⟨_, rfl, (commandWord_row _ c v).trans (by decide)⟩, fun h => by simp [rowOf] at h⟩

theorem get (c : Nat) : Statement (.get c) := fun p =>
  ⟨fun mask value h => by
    obtain ⟨rfl, rfl⟩ : 0xF00000FF#32 = mask ∧ 0x20000000#32 = value := by simpa [rowOf] using h
    exact ⟨_, rfl, (commandWord_row_val _ c).trans (by decide)⟩, fun h => by simp [rowOf] at h⟩

theorem sym0 : Statement .sym0 := fun p => ⟨by simp [rowOf], by simp [encode]⟩
theorem sym1 : Statement .sym1 := fun p => ⟨by simp [rowOf], by simp [encode]⟩
theorem bufsize (n : Nat) : Statement (.bufsize n) := fun p => ⟨by simp [rowOf], by simp [Sys2Proof.encode]⟩
theorem encode (b : Bool) : Statement (.encode b) := fun p => ⟨by simp [rowOf], by simp [Sys2Proof.encode]⟩
theorem render : Statement .render := fun p => ⟨by simp [rowOf], by simp [Sys2Proof.encode]⟩
theorem decode (buf : List Byte) (n : Nat) : Statement (.decode buf n) := fun p =>
  ⟨by simp [rowOf], by simp [Sys2Proof.encode]⟩
theorem transmit : Statement .transmit := fun p => ⟨by simp [rowOf], by simp [Sys2Proof.encode]⟩
theorem construct (q : Params) (led : Option Int) (order : Option (List Char)) :
    Statement (.construct q led order) := fun p => ⟨by simp [rowOf], by simp [Sys2Proof.encode]⟩
theorem teardown : Statement .teardown := fun p => ⟨by simp [rowOf], by simp [Sys2Proof.encode]⟩

end Sys2Proof.Laws.WordMatchesRow
end

