-- ==== Sys2Proof/Tests/Slice0.lean ====
section
/-!
SUPPORT. Tests of one operation each, expected values from 95_test_vectors.md (its section is named), the checks of
WellFormed each refusing an ill-formed term, the decodings of words written out from 30_encoding.md, and for every
obligation with hypotheses a state and operands that meet them.
-/
namespace Sys2Proof.Machine

/-! ## Helpers -/

/-- The state an outcome goes on with. -/
def nextOf (o : Host.Outcome State Fault Refusal) : Option State :=
  match o with
  | .next s => some s
  | _ => none

/-- The W = 4 and W = 5 test configurations of section 6, and the degenerate W = 1. -/
def params4 : Params := { w := 4, sym0 := 0b1000, sym1 := 0b1100, resetBits := 176, trailerBytes := 4, sizeMax := none }
def params5 : Params := { w := 5, sym0 := 0b11000, sym1 := 0b11100, resetBits := 220, trailerBytes := 4, sizeMax := none }
def params1 : Params := { w := 1, sym0 := 0, sym1 := 1, resetBits := 0, trailerBytes := 0, sizeMax := none }

/-- No Device. -/
def goneState : State := removed State.reset

/-- A Device in Rendering: a SET of register 0 holds the lock. -/
def renderingState (p : Params) (leds : Nat) (br : List Byte) : State :=
  { constructed goneState p leds Config.defaultOrder with
    br := br, fsm := .rendering, lock := .held, tenure := some (.set 0 (br.getD 0 0#8)) }

/-- A Device in Transmitting, its pass done. -/
def transmittingState : State := renderEnds (renderPass (renderingState Config.reference 1 [0x01#8, 0x00#8, 0x80#8]))

/-- What the display region holds after a pass. -/
def displayAfter (p : Params) (leds : Nat) (br : List Byte) : List Byte :=
  (snapshot (renderPass (renderingState p leds br))).take (leds * 3 * p.w)

/-! ## WellFormed: each check refuses an ill-formed term -/

theorem test_wf_reference : Config.reference.wf = true := by decide
theorem test_wf_width : Params.wfWidth { Config.reference with w := 0 } = false := by decide
theorem test_wf_sym0 : Params.wfSym0 { Config.reference with sym0 := 8 } = false := by decide
theorem test_wf_sym1 : Params.wfSym1 { Config.reference with sym1 := 8 } = false := by decide
theorem test_wf_distinct : Params.wfDistinct { Config.reference with sym1 := 4 } = false := by decide
theorem test_wf_high_time : Params.wfHighTime { Config.reference with sym1 := 2 } = false := by decide
/-- Section 2: RESET_BITS 132 with no trailer fails the condition of R105. -/
theorem test_wf_reset_hold : Params.wfResetHold { Config.reference with trailerBytes := 0 } = false := by decide
theorem test_wf_construct : Instr.wf (.construct { Config.reference with w := 0 } none none) = false := by decide
theorem test_wf_construct_leds : Instr.wf (.construct Config.reference (some 0) none) = false ∧
    Instr.wf (.construct Config.reference (some 1) none) = true ∧
    Instr.wf (.construct Config.reference none none) = true := by decide
theorem test_wf_led_count : Cfg.wfLedCount { Cfg.reference with ledCount := 0 } = false := by decide
theorem test_wf_size : Cfg.wfSize { Cfg.reference with s := 8 } = false ∧ Cfg.wfSize { Cfg.reference with s := 9 } = true := by
  decide
theorem test_wf_cfg : Cfg.reference.wf = true := by decide
/-- R119: 001 and 011 end high, so they meet every check of R11 and not the run shape; neither do a symbol of highs only
and one of lows only. -/
theorem test_wf_run_shape :
    Params.wf { Config.reference with sym0 := 0b001, sym1 := 0b011 } = true ∧
    Params.wfRunShape { Config.reference with sym0 := 0b001, sym1 := 0b011 } = false ∧
    Params.wfRunShape { Config.reference with sym1 := 0b111 } = false ∧
    Params.wfRunShape { Config.reference with sym0 := 0b000 } = false ∧
    Config.reference.wfRunShape = true ∧ params4.wfRunShape = true := by decide
theorem test_wf_set : Instr.wf (.set 1048576 0#8) = false ∧ Instr.wf (.set 1048575 0#8) = true := by decide
theorem test_wf_get : Instr.wf (.get 1048576) = false ∧ Instr.wf (.get 1048575) = true := by decide
theorem test_wf_bufsize : Instr.wf (.bufsize 0) = false := by decide

/-! ## Decode: words written out bit by bit -/

/-- R87: op 0001, chan 0x00005, val 0xBC (section 7). -/
theorem test_decode_set :
    decodeTableWord 32 0b00010000000000000000010110111100 = some (.set 5 0xBC#8) := by decide
/-- R87: the highest channel and value. -/
theorem test_decode_set_top :
    decodeTableWord 32 0b00011111111111111111111111111111 = some (.set 1048575 0xFF#8) := by decide
/-- R88: op 0010, chan 0x00002, val 0 (section 7). -/
theorem test_decode_get : decodeTableWord 32 0b00100000000000000000001000000000 = some (.get 2) := by decide
/-- R89: GET with val not 0. -/
theorem test_decode_get_val : decodeTableWord 32 0b00100000000000000000001000000001 = none := by decide
/-- R89: op 0000, 0011 and 1111. -/
theorem test_decode_reserved_op :
    decodeTableWord 32 0b00000000000000000000000000000000 = none ∧
    decodeTableWord 32 0b00110000000000000000000000000000 = none ∧
    decodeTableWord 32 0b11110000000000000000000000000000 = none := by decide
/-- R80: the two symbols. -/
theorem test_decode_symbols : decodeTableWord 8 0b100 = some .sym0 ∧ decodeTableWord 8 0b110 = some .sym1 := by decide
/-- R82: every other 3-bit pattern is reserved. -/
theorem test_decode_reserved_symbols : ∀ y ∈ [0b000, 0b001, 0b010, 0b011, 0b101, 0b111], decodeTableWord 8 y = none := by
  decide

/-! ## Geometry (section 2) -/

theorem test_bufsize_reference : bufSize Config.reference 3 = 29 ∧ bufSize Config.reference 300 = 920 := by decide
theorem test_bufsize_rounding :
    bufSize { Config.reference with resetBits := 7, trailerBytes := 0 } 3 = 9 ∧
    bufSize { Config.reference with resetBits := 7, trailerBytes := 1 } 3 = 10 ∧
    bufSize { Config.reference with resetBits := 135, trailerBytes := 1 } 3 = 26 ∧
    bufSize { Config.reference with resetBits := 1000, trailerBytes := 8 } 3 = 142 ∧
    bufSize params4 3 = 38 ∧ bufSize params5 3 = 46 := by decide
theorem test_exec_bufsize : (nextOf (exec (.bufsize 6) State.reset)).map (·.out) = some (.size 38) := by decide

/-! ## Bit Encoder (section 3) -/

theorem test_exec_encode :
    (nextOf (exec (.encode true) State.reset)).map (·.out) = some (.symbol 0b110) ∧
    (nextOf (exec (.encode false) State.reset)).map (·.out) = some (.symbol 0b100) := by decide
theorem test_exec_symbols :
    (nextOf (exec .sym0 State.reset)).map (·.out) = some (.symbol 0b100) ∧
    (nextOf (exec .sym1 State.reset)).map (·.out) = some (.symbol 0b110) := by decide
/-- R116, R117: high, low, low and high, high, low. -/
theorem test_line_levels :
    lineLevels 3 0b100 = [true, false, false] ∧ lineLevels 3 0b110 = [true, true, false] := by decide

/-! ## Frame Renderer (sections 4 to 6) -/

/-- Section 1.1 and section 6, third row. -/
theorem test_render_reference :
    displayAfter Config.reference 1 [0x01#8, 0x00#8, 0x80#8] =
      [0x92#8, 0x49#8, 0x26#8, 0x92#8, 0x49#8, 0x24#8, 0xD2#8, 0x49#8, 0x24#8] := by decide +kernel
/-- Section 6, sixth row. -/
theorem test_render_mixed :
    displayAfter Config.reference 1 [0x55#8, 0xAA#8, 0x0F#8] =
      [0x9A#8, 0x69#8, 0xA6#8, 0xD3#8, 0x4D#8, 0x34#8, 0x92#8, 0x4D#8, 0xB6#8] := by decide +kernel
/-- Section 6, W = 4. -/
theorem test_render_width4 :
    displayAfter params4 1 [0xA5#8, 0xFF#8, 0x00#8] =
      [0xC8#8, 0xC8#8, 0x8C#8, 0x8C#8, 0xCC#8, 0xCC#8, 0xCC#8, 0xCC#8, 0x88#8, 0x88#8, 0x88#8, 0x88#8] := by
  decide +kernel
/-- Section 6, W = 5. -/
theorem test_render_width5 :
    displayAfter params5 1 [0x01#8, 0x00#8, 0x80#8] =
      [0xC6#8, 0x31#8, 0x8C#8, 0x63#8, 0x1C#8, 0xC6#8, 0x31#8, 0x8C#8, 0x63#8, 0x18#8,
        0xE6#8, 0x31#8, 0x8C#8, 0x63#8, 0x18#8] := by decide +kernel
/-- Section 6, W = 1: the frame is the brightness bytes. -/
theorem test_render_width1 :
    displayAfter params1 1 [0xA5#8, 0x3C#8, 0x00#8] = [0xA5#8, 0x3C#8, 0x00#8] := by decide +kernel
/-- Section 6, stale content: the display region full of ones before the pass. -/
theorem test_render_stale :
    (snapshot (renderPass { renderingState Config.reference 1 [0#8, 0#8, 0#8] with
      buf := (List.range 9).map fun a => (a, 0xFF#8) })).take 10 =
      [0x92#8, 0x49#8, 0x24#8, 0x92#8, 0x49#8, 0x24#8, 0x92#8, 0x49#8, 0x24#8, 0x00#8] := by decide +kernel
/-- Section 5: after step 71 the cursors are 9 and 7 (R139). -/
theorem test_render_cursors :
    (renderPass (renderingState Config.reference 1 [0x01#8, 0x00#8, 0x80#8])).rpos =
      { ch := 2, lb := 0, sb := 0, byteCur := 9, bitCur := 7 } := by decide +kernel
theorem test_exec_render :
    (nextOf (exec .render (renderingState Config.reference 1 [0xFF#8, 0#8, 0#8]))).map (fun s => memRead s.buf 1) =
      some 0x6D#8 := by decide +kernel
/-- Section 4, the row of 0x5A by FRAME's closed form. -/
theorem test_frame_closed_form :
    (frame Cfg.reference [0x5A#8, 0x00#8, 0x00#8]).take 3 = [0x9A#8, 0x6D#8, 0x34#8] := by decide +kernel
/-- Section 1.3 and section 6: decoding, and two invalid inputs. -/
theorem test_decode_frame :
    decodeFrame Config.reference [0x92#8, 0x49#8, 0x26#8, 0x92#8, 0x49#8, 0x24#8, 0xD2#8, 0x49#8, 0x24#8] 3 =
      some [0x01#8, 0x00#8, 0x80#8] := by decide +kernel
theorem test_exec_decode_invalid :
    (nextOf (exec (.decode [0x12#8, 0x49#8, 0x24#8] 1) State.reset)).map (·.out) = some (.decoded none) ∧
    (nextOf (exec (.decode [0x92#8, 0x49#8, 0x25#8] 1) State.reset)).map (·.out) = some (.decoded none) := by
  decide +kernel

/-! ## GET and SET (sections 7 and 9) -/

/-- Program P2: GET 0 after SET 0, 0xFF answers 0x00FF. -/
theorem test_exec_get :
    (nextOf (exec (.get 0) { State.reset with br := [0xFF#8, 0#8, 0#8] })).map (·.rsp) =
      some [⟨.get 0, 0x00FF#16⟩] := by decide
/-- Section 7: GET 3 with N = 3. -/
theorem test_exec_get_bad_index :
    (nextOf (exec (.get 3) State.reset)).map (·.rsp) = some [⟨.get 3, 0x0200#16⟩] := by decide
/-- R175 worked example. -/
theorem test_exec_set :
    (nextOf (exec (.set 0 0x01#8) State.reset)).map (fun s => (s.br, (snapshot s).take 9, s.wire.length)) =
      some ([0x01#8, 0#8, 0#8], [0x92#8, 0x49#8, 0x26#8, 0x92#8, 0x49#8, 0x24#8, 0x92#8, 0x49#8, 0x24#8], 1) := by
  decide +kernel
/-- Section 7: SET 5 with N = 3; nothing but the response. -/
theorem test_exec_set_bad_index :
    (nextOf (exec (.set 5 0xBC#8) State.reset)).map (fun s => (s.rsp, s.br, s.wire)) =
      some ([⟨.set 5 0xBC#8, 0x0200#16⟩], [0#8, 0#8, 0#8], []) := by decide
/-- Program P2: a failed transmit answers 0x0105 and keeps the write. -/
theorem test_set_bus_error :
    (runTenure State.reset 0 0xFF#8 (.err 0x05#8)).rsp = [⟨.set 0 0xFF#8, 0x0105#16⟩] ∧
    (runTenure State.reset 0 0xFF#8 (.err 0x05#8)).br = [0xFF#8, 0#8, 0#8] := by decide +kernel
/-- Program P2: the buffer after the failed SET. -/
theorem test_set_bus_error_buffer :
    (snapshot (runTenure State.reset 0 0xFF#8 (.err 0x05#8))).take 4 = [0xDB#8, 0x6D#8, 0xB6#8, 0x92#8] := by
  decide +kernel
/-- Program P4, one order: after SET 0, 0x80, then SET 2, 0x01. -/
theorem test_set_second :
    (snapshot (runTenure (runTenure State.reset 0 0x80#8 .ok) 2 0x01#8 .ok)).take 9 =
      [0xD2#8, 0x49#8, 0x24#8, 0x92#8, 0x49#8, 0x24#8, 0x92#8, 0x49#8, 0x26#8] := by decide +kernel
/-- R177: a SET in a tenure waits. -/
theorem test_set_waits :
    (nextOf (exec (.set 1 2#8) transmittingState)).map (fun s => (s.pending, s.lock)) =
      some ([.set 1 2#8], .held) := by decide +kernel
/-- R182: all S bytes go onto WIRE. -/
theorem test_exec_transmit :
    (nextOf (exec .transmit transmittingState)).map (fun s => s.wire.map (·.frame.length)) = some [29] := by
  decide +kernel
/-- R203: a reserved word at the port answers 0x0300. -/
theorem test_step_reserved :
    (nextOf (step (State.reset.withFetchWord 32 0x30000000))).map (·.rsp) = some [⟨.word 0x30000000#32, 0x0300#16⟩] := by
  decide
/-- The first step from reset with a word at the port runs it. -/
theorem test_step_first :
    step (State.reset.withFetchWord 32 0x20000000) = exec (.get 0) State.reset ∧
    step (State.reset.withFetchWord 32 0x10000001) = exec (.set 0 1#8) State.reset ∧
    step (State.reset.withFetchWord 8 0b100) = exec .sym0 State.reset := ⟨rfl, rfl, rfl⟩

/-! ## Construction and teardown (section 8) -/

/-- The reset state is what CONSTRUCT with no items builds. -/
theorem test_reset_is_constructed :
    exec (.construct Config.reference none none) goneState = .next State.reset := by rfl
/-- Second and fifth rows: two LEDs; the order "RGBG" is cyclic. -/
theorem test_construct_two :
    (nextOf (exec (.construct Config.reference (some 2) (some ['R', 'G', 'B', 'G'])) goneState)).map
      (fun s => (s.cfg.n, s.cfg.s, s.role)) =
      some (6, 38, [.red, .green, .blue, .green, .red, .green]) := by decide
/-- The error rows: count 0, count -1, "GRX", "grb", and both. -/
theorem test_construct_errors :
    ([(some 0, none), (some (-1), none), (none, some ['G', 'R', 'X']), (none, some ['g', 'r', 'b']),
        (some 0, some ['X'])].map fun (c : Option Int × Option (List Char)) =>
      (nextOf (exec (.construct Config.reference c.1 c.2) goneState)).map (fun s => (initCode s.initStatus, s.fsm))) =
      [some ((1, 1), .unconstructed), some ((1, 1), .unconstructed), some ((1, 2), .unconstructed),
        some ((1, 2), .unconstructed), some ((1, 1), .unconstructed)] := by decide
/-- R236 worked example: after TEARDOWN, GET 0 is refused. -/
theorem test_teardown :
    (nextOf (exec .teardown State.reset)).map (fun s => (s.fsm, nextOf (exec (.get 0) s))) =
      some (.unconstructed, none) := by decide

/-! ## Witnesses: states and operands that meet an obligation's hypotheses -/

/-- Ready: SetRunsOneWholeTenure, SetLeavesTheRestAlone, SameValueIsSentAgain, FailedTransmitKeepsTheUpdate, with the
first and the last channel. -/
theorem test_wit_ready : Ready State.reset ∧ 0 < State.reset.cfg.n ∧ 2 < State.reset.cfg.n :=
  ⟨⟨rfl, rfl, memWf_nil, by constructor <;> decide, fun _ _ => rfl⟩, by decide, by decide⟩

/-- BufsizeReturnsTheFormula, EncodeReturnsTheSymbol, SymbolsReturnTheirPatterns, DecodeReadsEverySlot
(both clauses, at the exact length and one short). -/
theorem test_wit_live :
    State.reset.fsm ≠ .unconstructed ∧ 0 < 1 ∧ 1 * State.reset.cfg.params.w ≤ [0x92#8, 0x49#8, 0x24#8].length ∧
    [0x92#8, 0x49#8].length < 1 * State.reset.cfg.params.w := by decide

/-- BufsizeMonotoneAndRoomy, each clause. -/
theorem test_wit_monotone : 3 ≤ 3 ∧ 1 ≤ Config.reference.w ∧ 3 < 4 := by decide

/-- SymdecodeInvertsEncode, with a third pattern; DecodeAndEncodeAgree. -/
theorem test_wit_symbols :
    Config.reference.sym0 ≠ Config.reference.sym1 ∧ 5 ≠ Config.reference.sym0 ∧ 5 ≠ Config.reference.sym1 ∧
    Instr.wf (.set 1048575 0xFF#8) = true ∧
    encode Config.reference (.set 1048575 0xFF#8) = some (.command 0x1FFFFFFF#32) ∧
    decodeFetch Config.reference (.command 0x1FFFFFFF#32) = .ok (.set 1048575 0xFF#8) ∧
    decodeFetch Config.reference (.symbol 6) = .ok .sym1 := by decide

/-- CursorStepReplacesOneBit, both cursor clauses. -/
theorem test_wit_cursor : memWf [] ∧ (startOfPass 3).bitCur ≠ 0 ∧ { startOfPass 3 with bitCur := 0 }.bitCur = 0 :=
  ⟨memWf_nil, by decide, rfl⟩

/-- RenderMakesTheFrame, EverySubBitHasItsPosition, RenderWalksEveryPositionOnce, RenderStopsAtTheResetRegion, RolesDoNotReachTheFrame. -/
theorem test_wit_rendering :
    let s := renderingState Config.reference 1 [0x01#8, 0x00#8, 0x80#8]
    s.fsm = .rendering ∧ memWf s.buf ∧ LengthOk s ∧ ResetRegionZero s :=
  ⟨rfl, memWf_nil, by constructor <;> decide, fun _ _ => rfl⟩

/-- RenderForgetsOldContent: stale ones in the whole display region, addresses 0 to 8. -/
theorem test_wit_stale :
    let s := renderingState Config.reference 1 [0x01#8, 0x00#8, 0x80#8]
    let old : Memory := (List.range 9).map fun a => (a, 0xFF#8)
    memWf old ∧ ∀ a, s.cfg.n * s.cfg.params.w ≤ a → memRead old a = memRead s.buf a := by
  refine ⟨by decide, fun a (ha : 9 ≤ a) => memRead_unlisted fun x hx => ?_⟩
  have : x.1 < 9 := (by decide : ∀ x ∈ (List.range 9).map fun a => (a, 0xFF#8), x.1 < 9) x hx
  omega

/-- FrameRoundTrip, FrameChangesOnlyWhereTheSymbolsDiffer (with 0x00 and with 0xFF, first and last bit, first and last
channel), ReferenceByteFormulas. -/
theorem test_wit_frame :
    encodable Cfg.reference.params = true ∧ Cfg.reference.n * Cfg.reference.params.w ≤ Cfg.reference.s ∧
    [0x00#8, 0x12#8, 0xFF#8].length = Cfg.reference.n ∧ [0x00#8, 0x12#8, 0xFF#8].getD 0 0#8 = 0x00#8 ∧
    [0x00#8, 0x12#8, 0xFF#8].getD 2 0#8 = 0xFF#8 ∧ 0 < Cfg.reference.n ∧ 2 < Cfg.reference.n ∧ 0 < 8 ∧ 7 < 8 ∧
    2 < Cfg.reference.params.w ∧ Cfg.reference.params = Config.reference := by decide

/-- GetAnswersTheRegister and BadIndexChangesNothing at the boundary N = 3; StepRunsTheDecodedInstruction. -/
theorem test_wit_index :
    State.reset.fsm = .idle ∧ LengthOk State.reset ∧ 2 < State.reset.cfg.n ∧ State.reset.cfg.n ≤ 3 ∧
    (State.reset.withFetchWord 32 0x20000000).port = some (.command 0x20000000#32) ∧
    decodeFetch State.reset.cfg.params (.command 0x20000000#32) = .ok (.get 0) :=
  ⟨rfl, by constructor <;> decide, by decide, by decide, by decide, by decide⟩

/-- CommandsWaitForTheTenure, in Rendering and in Transmitting; TransmitRecordsTheSnapshot. -/
theorem test_wit_tenure :
    (renderingState Config.reference 1 [1#8, 0#8, 0#8]).fsm = .rendering ∧
    (renderingState Config.reference 1 [1#8, 0#8, 0#8]).lock = .held ∧
    transmittingState.fsm = .transmitting ∧ transmittingState.lock = .held ∧ 2 < transmittingState.cfg.n := by
  decide

/-- SetsInSequenceGiveOneFrameEach and DistinctSetsLeaveTheSameInAnyOrder: two SETs of distinct channels, both
orders. -/
theorem test_wit_sequence :
    (∀ cv ∈ [(0, 0x80#8), (2, 0x01#8)], cv.1 < State.reset.cfg.n) ∧
    [(0, 0x80#8), (2, 0x01#8)].Perm [(2, 0x01#8), (0, 0x80#8)] ∧
    ([(0, 0x80#8), (2, 0x01#8)].map Prod.fst).Nodup :=
  ⟨by decide, by decide, by decide⟩

/-- CoordinatorMakesItsTransitions, the requests of each clause in Idle, as words: a SET of the last channel and of the
first that is none, a GET, a reserved word. -/
theorem test_wit_request_words :
    decodeRequest (.word 0x10000280#32) = .ok (.set 2 0x80#8) ∧ 2 < State.reset.cfg.n ∧
    decodeRequest (.word 0x10000380#32) = .ok (.set 3 0x80#8) ∧ State.reset.cfg.n ≤ 3 ∧
    decodeRequest (.word 0x20000200#32) = .ok (.get 2) ∧ decodeRequest (.word 0x20000300#32) = .ok (.get 3) ∧
    decodeRequest (.word 0x00000000#32) = .error .reservedOp := by decide

/-- CoordinatorMakesItsTransitions, each clause; PhasedTenureIsTheSet; SomeWaitingRequestStarts, both clauses. -/
theorem test_wit_transitions :
    (renderingState Config.reference 1 [1#8, 0#8, 0#8]).port = none ∧
    LengthOk (renderingState Config.reference 1 [1#8, 0#8, 0#8]) ∧
    transmittingState.port = none ∧ LengthOk transmittingState ∧
    State.reset.port = none ∧ State.reset.fsm = .idle ∧ State.reset.lock = .free ∧ LengthOk State.reset ∧
    goneState.port = none ∧ goneState.fsm = .unconstructed :=
  ⟨rfl, by constructor <;> decide, rfl, by constructor <;> decide, rfl, rfl, rfl, by constructor <;> decide, rfl, rfl⟩

/-- ConstructBuildsTheDevice, ConstructMeetsTheLaunchPremises, RolesFollowTheColourOrder: the default, and one LED with
SIZE_MAX at 29, which just fits. -/
theorem test_wit_buildable :
    goneState.fsm = .unconstructed ∧ Buildable Config.reference none none ∧
    Buildable { Config.reference with sizeMax := some 29 } (some 1) (some ['R', 'G', 'B', 'G']) ∧
    Config.reference.wf = true ∧ State.reset.fsm ≠ .unconstructed ∧ Instr.get 0 ≠ .teardown ∧
    ∃ t, exec (.get 0) State.reset = .next t :=
  ⟨rfl, by constructor <;> decide, by constructor <;> decide, by decide, by decide, by simp, _, rfl⟩

/-- Each clause of ConstructFailsFast, with SIZE_MAX at 28; ConstructDefaults, with each bad value; the CONSTRUCT
clause of StopsAreNamed. -/
theorem test_wit_construct :
    goneState.fsm = .unconstructed ∧ 0 < (none : Option Int).getD 1 ∧ (some (0 : Int)).getD 1 ≤ 0 ∧
    lettersKnown (colorOrderOf none) = true ∧ lettersKnown (colorOrderOf (some ['X'])) = false ∧
    tooLarge { Config.reference with sizeMax := some 28 } (bufSize Config.reference 3) = true ∧
    (∃ n, some (0 : Int) = some n ∧ n ≤ 0) ∧ ('X' ∈ ['G', 'X'] ∧ 'X' ≠ 'R' ∧ 'X' ≠ 'G' ∧ 'X' ≠ 'B') ∧
    encodable { Config.reference with sym1 := 4 } = false ∧ encodable Config.reference = true :=
  ⟨rfl, by decide, by decide, by decide, by decide, by decide, ⟨0, rfl, le_rfl⟩, by decide, by decide, by decide⟩

/-- TeardownRemovesTheDevice and, with test_wit_buildable, NothingSurvivesReconstruction;
UnconstructedRefusesEverythingElse, each clause. -/
theorem test_wit_teardown :
    State.reset.fsm = .idle ∧ State.reset.pending = [] ∧ goneState.fsm = .unconstructed ∧
    (∀ p led order, Instr.get 0 ≠ .construct p led order) ∧ State.reset.fsm ≠ .unconstructed :=
  ⟨rfl, rfl, rfl, fun _ _ _ => by simp, by decide⟩

/-- StopsAreNamed: by a waiting request, a wrong register count (idle and rendering), a reserved symbol and a
short buffer. -/
theorem test_wit_stops :
    { State.reset with pending := [.get 0] }.fsm ≠ .unconstructed ∧ { State.reset with pending := [.get 0] }.pending ≠ [] ∧
    State.reset.fsm ≠ .rendering ∧ State.reset.fsm ≠ .transmitting ∧
    { State.reset with br := [] }.br.length ≠ State.reset.cfg.n ∧ State.reset.lock = .free ∧ 2 < State.reset.cfg.n ∧
    { Cfg.reference with s := 8 }.s < Cfg.reference.n * Cfg.reference.params.w ∧
    (renderingState Config.reference 1 []).fsm = .rendering ∧
    (renderingState Config.reference 1 []).br.length ≠ (renderingState Config.reference 1 []).cfg.n ∧
    (State.reset.withFetchWord 3 0b101).port = some (.symbol 5) ∧ symDecode State.reset.cfg.params 5 = none := by decide

/-- CommandWordsAsNumbers at the last channel; ReservedWordsAnswerBadCommand in both ways a word is reserved. -/
theorem test_wit_words :
    1048575 < 2 ^ 20 ∧ decodeCommand 0x30000000#32 = .error .reservedOp ∧
    decodeCommand 0x20000201#32 = .error .reservedVal ∧
    (State.reset.withFetchWord 32 0x20000201).port = some (.command 0x20000201#32) := by decide

/-- A live Device other than reset, with a GET at the port and one frame on WIRE. -/
def liveState : State := { runTenure State.reset 0 0x01#8 .ok with port := some (.command 0x20000000#32) }

/-- OnlyTheNamedOperationsWrite. -/
theorem test_wit_exec : exec (.get 0) State.reset = .next (answer State.reset (.get 0) 0#16) ∧
    (∀ p led order, Instr.get 0 ≠ .construct p led order) ∧ Instr.get 0 ≠ .teardown ∧
    (∀ c v, Instr.get 0 ≠ .set c v) ∧ Instr.get 0 ≠ .render ∧ Instr.get 0 ≠ .transmit :=
  ⟨rfl, fun _ _ _ => by simp, by simp, fun _ _ => by simp, by simp, by simp⟩

theorem liveState_memory : memWf liveState.buf := by decide +kernel

theorem liveState_frame : snapshot liveState = frame liveState.cfg liveState.br := by decide +kernel

theorem liveState_resetRegion : ResetRegionZero liveState := by
  intro a (ha : 9 ≤ a)
  refine memRead_unlisted fun x hx => ?_
  have : x.1 < 9 := (by decide +kernel : ∀ x ∈ liveState.buf, x.1 < 9) x hx
  omega

/-- StepKeepsTheInvariant, NoStepTearsAFrame, EveryFrameOnWireDecodes: an invariant state whose step goes on. -/
theorem test_wit_invariant :
    MachineInv liveState ∧ FrameInv liveState ∧ (∃ t, step liveState = .next t) ∧ liveState.fsm ≠ .unconstructed ∧
    liveState.wire ≠ [] := by
  have hw : ∀ e ∈ liveState.wire, e.frame = frame liveState.cfg liveState.br := by decide +kernel
  refine ⟨⟨liveState_memory, fun _ => ?_, fun h => absurd h (by decide), by decide, by decide⟩,
    ⟨fun _ _ => liveState_frame, fun h => absurd h (by decide), fun e he => ⟨liveState.br, by decide, hw e he⟩⟩,
    ⟨_, rfl⟩, by decide, by decide⟩
  exact ⟨by decide, by decide, by decide, by decide, by decide, by decide, by decide, rfl, liveState_resetRegion,
    ⟨by decide +kernel, by decide +kernel, by decide +kernel⟩⟩

/-! Waiting requests -/

/-- Reset with a GET waiting, in its word form. -/
def waitingState : State := { State.reset with pending := [.word 0x20000000#32] }

/-- No more requests arrive, and the oldest is granted. -/
def firstCome : Nat → Choice := fun _ => { issued := [], granted := 0 }

theorem reset_inv : MachineInv State.reset := by
  refine ⟨memWf_nil, fun _ => ?_, fun h => absurd h (by decide), by decide, by decide⟩
  exact ⟨by decide, by decide, by decide, by decide, by decide, by decide, by decide, rfl, fun _ _ => rfl,
    ⟨by decide, by decide, by decide⟩⟩

theorem waitingState_inv : MachineInv waitingState :=
  ⟨memWf_nil, fun h => let l := reset_inv.live h
    ⟨l.leds, l.channels, l.size, l.params, l.letters, l.registers, l.roles, l.names, l.resetRegion, l.rpos⟩,
    fun h => absurd h (by decide), by decide, by decide⟩

/-- With nothing waiting and nothing arriving, the host alone moves, and nothing ever waits. -/
theorem nothing_waits {s t : State} (hp : s.port = none ∧ s.pending = [] ∧ (s.fsm = .idle ∨ s.fsm = .unconstructed))
    (h : nextStepBy (firstCome 0) s = .next t) :
    t.port = none ∧ t.pending = [] ∧ (t.fsm = .idle ∨ t.fsm = .unconstructed) := by
  have host : ∀ u : State, u.port = none ∧ u.pending = [] ∧ (u.fsm = .idle ∨ u.fsm = .unconstructed) →
      hostMove u = .next t → t.port = none ∧ t.pending = [] ∧ (t.fsm = .idle ∨ t.fsm = .unconstructed) := by
    intro u hu hm
    unfold hostMove at hm
    split at hm
    · obtain ⟨_, ⟨e, rfl⟩ | ⟨_, _, _, rfl⟩⟩ := execConstruct_next hm
      · exact hu
      · exact ⟨hu.1, rfl, .inl rfl⟩
    · obtain ⟨_, _, rfl⟩ := execTeardown_next.1 hm
      exact ⟨hu.1, rfl, .inr rfl⟩
    · cases hm
      exact hu
  obtain ⟨h₁, h₂, hf | hf⟩ := hp
  · have hm : nextStepBy (firstCome 0) s = hostMove (arrivalsOf [] s) := by
      simp [nextStepBy, h₁, hf, idleMove, firstCome, h₂]
    exact host (arrivalsOf [] s) ⟨h₁, by simp [h₂], .inl hf⟩ (hm.symm.trans h)
  · have hm : nextStepBy (firstCome 0) s = hostMove s := by simp [nextStepBy, h₁, hf]
    exact host s ⟨h₁, h₂, .inr hf⟩ (hm.symm.trans h)

theorem waitingState_starts : Starts (firstCome 0) waitingState (.word 0x20000000#32) := ⟨rfl, rfl, rfl⟩

theorem waitingState_fair : WeaklyFair firstCome waitingState := by
  have later : ∀ k t, runBy firstCome (k + 1) waitingState = .next t →
      t.port = none ∧ t.pending = [] ∧ (t.fsm = .idle ∨ t.fsm = .unconstructed) := by
    intro k
    induction k with
    | zero =>
      intro t h
      change nextStepBy (firstCome 0) waitingState = .next t at h
      rw [nextStepBy_of_starts waitingState_starts] at h
      cases h
      exact ⟨rfl, rfl, .inl rfl⟩
    | succ k ih =>
      intro t h
      rw [runBy] at h
      split at h
      · next u hu => exact nothing_waits (ih u hu) h
      all_goals simp at h
  intro k t q hk hq
  cases k with
  | zero =>
    cases hk
    obtain rfl : q = .word 0x20000000#32 := by simpa [waitingState] using hq
    exact ⟨0, waitingState, le_rfl, rfl, waitingState_starts⟩
  | succ k => simp [(later k t hk).2.1] at hq

/-- AnyWaitingRequestMayStart, StartedRequestIsAnswered, EveryWaitingRequestIsAnswered: a request waits, the choices are
fair, and it is started. -/
theorem test_wit_waiting :
    waitingState.port = none ∧ waitingState.fsm = .idle ∧ waitingState.pending[0]? = some (.word 0x20000000#32) ∧
    MachineInv waitingState ∧ Starts (firstCome 0) waitingState (.word 0x20000000#32) ∧
    WeaklyFair firstCome waitingState ∧ runBy firstCome 0 waitingState = .next waitingState :=
  ⟨rfl, rfl, rfl, waitingState_inv, waitingState_starts, waitingState_fair, rfl⟩

end Sys2Proof.Machine
end

section
/-!
PROOF. A step with something at the port (00_scope.md R17, 30_encoding.md R86; log 11).
-/
namespace Sys2Proof.Machine

/-- What stands at the port runs before any transition of the coordinator, whatever the free choice is. -/
theorem nextStepBy_of_port {c : Choice} {s : State} {f : Fetch} (hp : s.port = some f) :
    nextStepBy c s = runPort f { s with port := none } := by
  simp only [nextStepBy, hp]

theorem step_of_port {s : State} {f : Fetch} (hp : s.port = some f) :
    step s = runPort f { s with port := none } := by
  rw [step_eq_nextStepBy, nextStepBy_of_port hp]

theorem runPort_of_decodeFetch {s : State} {f : Fetch} {i : Instr} (hd : decodeFetch s.cfg.params f = .ok i) :
    runPort f s = exec i s := by
  simp only [runPort, hd]

/-- Settles O45: the step takes what stands at the port, and emptying the port leaves the parameters it is decoded
with. -/
theorem stepRunsTheDecodedInstruction : Obligations.StepRunsTheDecodedInstruction := by
  intro s f i hp hd
  calc step s = runPort f { s with port := none } := step_of_port hp
    _ = exec i { s with port := none } := runPort_of_decodeFetch hd

end Sys2Proof.Machine
end

section
/-!
PROOF. The buffer after a render pass, byte by byte: the bytes of FRAME in the display region, the old ones from `N*W`
on (42_frame_renderer.md R137, R140).
-/
namespace Sys2Proof.Machine

/-- The bits of a byte of memory are its eight bus-bits, the first one in bit 7 (R51). -/
theorem memRead_getLsbD (m : Memory) (a : Nat) {i : Nat} (hi : i < 8) :
    (memRead m a).getLsbD i = memBusBit m (8 * a + (7 - i)) := by
  have hdiv : (8 * a + (7 - i)) / 8 = a := by omega
  have hmod : 7 - (8 * a + (7 - i)) % 8 = i := by omega
  rw [memBusBit, hdiv, hmod]

/-- Shifting the bits `f 0 .. f (n-1)` into a byte leaves the last one in bit 0. -/
theorem shiftIn_getLsbD (f : Nat → Bool) (n : Nat) {i : Nat} (hi : i < 8) :
    ((List.range n).foldl (fun (acc : Byte) j => (acc <<< 1) ||| (if f j then 1#8 else 0#8)) 0#8).getLsbD i =
      (decide (i < n) && f (n - 1 - i)) := by
  induction n generalizing i with
  | zero => simp
  | succ n ih =>
    rw [List.range_succ, List.foldl_append, List.foldl_cons, List.foldl_nil, BitVec.getLsbD_or,
      BitVec.getLsbD_shiftLeft]
    cases i with
    | zero => cases hb : f n <;> simp [hb]
    | succ i =>
      have hbit : (if f n then 1#8 else 0#8).getLsbD (i + 1) = false := by split <;> simp
      have hidx : n + 1 - 1 - (i + 1) = n - 1 - i := by omega
      rw [hbit, hidx, Nat.add_sub_cancel, ih (by omega)]
      simp [hi]

theorem packByte_getLsbD (f : Nat → Bool) {i : Nat} (hi : i < 8) : (packByte f).getLsbD i = f (7 - i) := by
  rw [packByte, shiftIn_getLsbD f 8 hi, decide_eq_true hi, Bool.true_and]

section Pass
variable {s : State} (hm : memWf s.buf) (hl : s.br.length = s.cfg.n)
include hm hl

/-- The pass writes no byte beyond the display region (R140). -/
theorem renderPass_memRead_beyond {a : Nat} (ha : s.cfg.n * s.cfg.params.w ≤ a) :
    memRead (renderPass s).buf a = memRead s.buf a := by
  obtain ⟨-, -, hbits⟩ := renderPass_spec hm hl
  refine BitVec.eq_of_getLsbD_eq fun i hi => ?_
  rw [memRead_getLsbD _ _ hi, memRead_getLsbD _ _ hi, hbits, if_neg]
  rw [Nat.mul_assoc]
  omega

theorem renderPass_keeps_resetRegion (hz : ResetRegionZero s) : ResetRegionZero (renderPass s) :=
  fun a ha => (renderPass_memRead_beyond hm hl ha).trans (hz a ha)

/-- With a zero reset region the whole buffer after the pass is FRAME of the registers (R137). -/
theorem snapshot_renderPass (hz : ResetRegionZero s) : snapshot (renderPass s) = frame s.cfg s.br := by
  obtain ⟨-, -, hbits⟩ := renderPass_spec hm hl
  refine List.map_congr_left fun a _ => BitVec.eq_of_getLsbD_eq fun i hi => ?_
  rw [memRead_getLsbD _ _ hi, packByte_getLsbD _ hi, hbits]
  split
  · rfl
  · next hx =>
    have ha : s.cfg.n * s.cfg.params.w ≤ a := by
      rw [Nat.mul_assoc] at hx
      omega
    rw [← memRead_getLsbD _ _ hi, hz a ha, frameBit, if_neg hx, BitVec.getLsbD_zero]

/-- The position after the last bit write of a pass is in its ranges (R23). -/
theorem renderPass_rpos_inRange (hn : 0 < s.cfg.n) (hw : 0 < s.cfg.params.w) :
    RposInRange s.cfg (renderPass s).rpos := by
  obtain ⟨⟨hbyte, -⟩, -, -⟩ := renderPass_spec hm hl
  obtain ⟨hch, -, hsb⟩ : (renderPass s).rpos.ch = 0 + s.br.length - 1 ∧ (renderPass s).rpos.lb = 0 ∧
      (renderPass s).rpos.sb = 0 :=
    putChannels_counters s.cfg.params 0 s.br _ hw (List.ne_nil_of_length_pos (hl ▸ hn))
  refine ⟨by omega, by omega, ?_⟩
  rw [hbyte, Nat.mul_assoc, Nat.mul_div_cancel_left _ (by decide)]

end Pass

end Sys2Proof.Machine
end

section
/-!
PROOF. What a step can do to the Device, said once: it is a sequence of stages (44_update_coordinator.md R175, R176;
70_reset_and_hazards.md R230, R236), so an invariant that every stage keeps is kept by every step.
-/
namespace Sys2Proof.Machine

/-- One stage of what the hardware does. -/
inductive Stage : State → State → Prop where
  /-- Nothing happens but at the interfaces; without a Device PENDING stays as it is (R35). -/
  | interface {s : State} {pending : List Request} {rsp : List Answer} {initStatus : InitStatus} {out : FnResult}
      {port : Option Fetch} {draws : Nat} (hp : s.fsm = .unconstructed → pending = s.pending) :
      Stage s { s with
        pending := pending, rsp := rsp, initStatus := initStatus, out := out, port := port, draws := draws }
  /-- R175 steps 2 and 3. -/
  | begins {s : State} {c : Nat} {v : Byte} (hf : s.fsm ≠ .unconstructed) : Stage s (beginTenure s c v)
  /-- A pass whose end is not yet the transition (RENDER by itself). -/
  | renders {s : State} (hf : s.fsm = .rendering) : Stage s (renderPass s)
  /-- R175 steps 4 and 5. -/
  | renderEnds {s : State} (hf : s.fsm = .rendering) : Stage s (renderEnds (renderPass s))
  /-- R175 step 6. -/
  | transmits {s : State} {r : TxResult} (hf : s.fsm = .transmitting) : Stage s (transmitFrame s r)
  /-- R175 steps 7 and 8. -/
  | ends {s : State} {r : TxResult} (hf : s.fsm = .transmitting) : Stage s (endTenure s r)
  /-- R230 steps 7 to 9. -/
  | constructs {s : State} {p : Params} {leds : Nat} {order : List Char} (hleds : 1 ≤ leds) (hne : order ≠ [])
      (hk : lettersKnown order = true) (hp : encodable p = true) : Stage s (constructed s p leds order)
  /-- R236. -/
  | removes {s : State} : Stage s (removed s)

/-- Any number of stages, one after the other. -/
abbrev Stages : State → State → Prop := Relation.ReflTransGen Stage

section Interface
variable (s : State)

theorem stage_answer (q : Request) (w : Rsp) : Stage s (answer s q w) := .interface fun _ => rfl

theorem stage_returns (r : FnResult) : Stage s (returns s r) := .interface fun _ => rfl

theorem stage_constructFails (e : InitStatus) : Stage s (constructFails s e) := .interface fun _ => rfl

theorem stage_hostDraw : Stage s (hostDraw s) := .interface fun _ => rfl

theorem stage_portEmptied : Stage s { s with port := none } := .interface fun _ => rfl

variable {s} (hf : s.fsm ≠ .unconstructed)
include hf

theorem stage_waits (q : Request) : Stage s (waits s q) := .interface fun h => absurd h hf

theorem stage_arrivalsOf (qs : List Request) : Stage s (arrivalsOf qs s) := .interface fun h => absurd h hf

theorem stage_takeGranted (g : Nat) : Stage s (takeGranted g s) := .interface fun h => absurd h hf

end Interface

theorem colorOrderOf_ne_nil (order : Option (List Char)) : colorOrderOf order ≠ [] := by
  cases order with
  | none => simp [colorOrderOf, Config.defaultOrder]
  | some cs => cases cs <;> simp [colorOrderOf, Config.defaultOrder]

/-- A whole SET is its stages, in order (R175, R176). -/
theorem stages_runTenure {s : State} (hf : s.fsm ≠ .unconstructed) (c : Nat) (v : Byte) (r : TxResult) :
    Stages s (runTenure s c v r) :=
  (((Relation.ReflTransGen.single (.begins hf)).tail (.renderEnds rfl)).tail (.transmits rfl)).tail (.ends rfl)

theorem badCommand_stages {q : Request} {s t : State} (h : badCommand q s = .next t) : Stages s t := by
  obtain ⟨-, rfl⟩ := badCommand_next.1 h
  exact .single (stage_answer _ _ _)

/-- Every operation that goes on does so in stages. -/
theorem exec_stages {i : Instr} {s t : State} (h : exec i s = .next t) : Stages s t := by
  cases i with
  | sym0 =>
    obtain ⟨-, rfl⟩ := execSym0_next.1 h
    exact .single (stage_returns _ _)
  | sym1 =>
    obtain ⟨-, rfl⟩ := execSym1_next.1 h
    exact .single (stage_returns _ _)
  | set c v =>
    obtain ⟨hf, ⟨-, -, -, rfl⟩ | ⟨-, -, rfl⟩ | ⟨-, rfl⟩⟩ := execSet_next.1 h
    · exact stages_runTenure hf _ _ _
    · exact .single (stage_waits hf _)
    · exact .single (stage_answer _ _ _)
  | get c =>
    obtain ⟨hf, ⟨-, -, -, rfl⟩ | ⟨-, -, rfl⟩ | ⟨-, rfl⟩⟩ := execGet_next.1 h
    · exact .single (stage_answer _ _ _)
    · exact .single (stage_answer _ _ _)
    · exact .single (stage_waits hf _)
  | bufsize n =>
    obtain ⟨-, -, rfl⟩ := execBufsize_next.1 h
    exact .single (stage_returns _ _)
  | encode b =>
    obtain ⟨-, rfl⟩ := execEncode_next.1 h
    exact .single (stage_returns _ _)
  | render =>
    obtain ⟨hf, -, rfl⟩ := execRender_next.1 h
    exact .single (.renders hf)
  | decode buf n =>
    obtain ⟨-, -, rfl⟩ := execDecode_next.1 h
    exact .single (stage_returns _ _)
  | transmit =>
    obtain ⟨hf, rfl⟩ := execTransmit_next.1 h
    exact .single (.transmits hf)
  | construct p led order =>
    obtain ⟨-, ⟨e, rfl⟩ | ⟨hleds, hk, hp, rfl⟩⟩ := execConstruct_next h
    · exact .single (stage_constructFails _ _)
    · exact .single (.constructs (by omega) (colorOrderOf_ne_nil order) hk hp)
  | teardown =>
    obtain ⟨-, -, rfl⟩ := execTeardown_next.1 h
    exact .single .removes

theorem hostMove_stages {s t : State} (h : hostMove s = .next t) : Stages s t := by
  obtain ⟨i, hi⟩ | rfl := hostMove_cases h
  · exact .head (stage_hostDraw s) (exec_stages hi)
  · exact .single (stage_hostDraw s)

theorem idleMove_stages {g : Nat} {s t : State} (hf : s.fsm ≠ .unconstructed) (h : idleMove g s = .next t) :
    Stages s t := by
  have hg := stage_takeGranted hf g
  obtain ⟨c, v, -, rfl⟩ | ⟨i, hi⟩ | ⟨q, hq⟩ | hm := idleMove_cases h
  · exact .head hg (.single (.begins hf))
  · exact .head hg (exec_stages hi)
  · exact .head hg (badCommand_stages hq)
  · exact hostMove_stages hm

/-- Every step of the relation that goes on does so in stages, whatever the choice is. -/
theorem nextStepBy_stages {c : Choice} {s t : State} (h : nextStepBy c s = .next t) : Stages s t := by
  obtain ⟨i, hi⟩ | ⟨q, hq⟩ | ⟨-, -, hm⟩ | ⟨-, hf, hm⟩ | ⟨-, hf, -, rfl⟩ | ⟨-, hf, rfl⟩ := nextStepBy_cases h
  · exact .head (stage_portEmptied s) (exec_stages hi)
  · exact .head (stage_portEmptied s) (badCommand_stages hq)
  · exact hostMove_stages hm
  · have hlive : s.fsm ≠ .unconstructed := by simp [hf]
    exact .head (stage_arrivalsOf hlive _) (idleMove_stages hlive hm)
  · exact .head (stage_arrivalsOf (by simp [hf]) _) (.single (.renderEnds hf))
  · exact .head (stage_arrivalsOf (by simp [hf]) _) (.head (.transmits hf) (.single (.ends hf)))

theorem step_stages {s t : State} (h : step s = .next t) : Stages s t :=
  nextStepBy_stages (by rwa [← step_eq_nextStepBy])

end Sys2Proof.Machine
end

section
/-!
PROOF. The invariant of the machine (10_state.md R20 to R36): reset meets it, and every stage keeps it.
-/
namespace Sys2Proof.Machine

/-- What a live Device needs to stay sound while CFG, roles and names stay: as many registers, a zero reset region, the
position in its ranges. -/
theorem LiveInv.keep {s t : State} (l : LiveInv s) (hcfg : t.cfg = s.cfg) (hbr : t.br.length = s.br.length)
    (hrole : t.role = s.role) (hname : t.nameOf = s.nameOf) (hz : ResetRegionZero t)
    (hr : RposInRange s.cfg t.rpos) : LiveInv t where
  leds := hcfg ▸ l.leds
  channels := hcfg ▸ l.channels
  size := hcfg ▸ l.size
  params := hcfg ▸ l.params
  letters := hcfg ▸ l.letters
  registers := by rw [hbr, hcfg, l.registers]
  roles := by rw [hrole, hcfg, l.roles]
  names := by rw [hname, hcfg, l.names]
  resetRegion := hz
  rpos := hcfg ▸ hr

theorem LiveInv.channels_pos {s : State} (l : LiveInv s) : 0 < s.cfg.n := by
  have := l.leds
  rw [l.channels, Config.colorsPerLed]
  omega

theorem encodable_width {p : Params} (h : encodable p = true) : 0 < p.w := by
  simp only [encodable, Bool.and_eq_true, Params.wfWidth, decide_eq_true_eq] at h
  obtain ⟨⟨⟨hw, -⟩, -⟩, -⟩ := h
  exact hw

theorem LiveInv.afterPass {s : State} (l : LiveInv s) (hm : memWf s.buf) : LiveInv (renderPass s) :=
  l.keep rfl rfl rfl rfl (renderPass_keeps_resetRegion hm l.registers l.resetRegion)
    (renderPass_rpos_inRange hm l.registers l.channels_pos (encodable_width l.params))

/-- A Device that CONSTRUCT made meets the invariant (R230). -/
theorem constructed_machineInv (s : State) {p : Params} {leds : Nat} {order : List Char} (hleds : 1 ≤ leds)
    (hne : order ≠ []) (hk : lettersKnown order = true) (hp : encodable p = true) :
    MachineInv (constructed s p leds order) where
  memory := memWf_nil
  live _ :=
    have hn : 0 < leds * Config.colorsPerLed := Nat.mul_pos hleds (by decide)
    have hw := encodable_width hp
    { leds := hleds, channels := rfl, size := rfl, params := hp, letters := ⟨hne, hk⟩
      registers := List.length_replicate, roles := rfl, names := rfl, resetRegion := fun _ _ => rfl
      rpos := ⟨hn, Nat.sub_lt hw Nat.one_pos, Nat.zero_le _⟩ }
  gone h := by simp at h
  lock := by simp
  tenure := by simp

/-- Nothing is left after TEARDOWN (R236). -/
theorem removed_machineInv (s : State) : MachineInv (removed s) where
  memory := memWf_nil
  live h := absurd rfl h
  gone _ := ⟨rfl, rfl, rfl, rfl, rfl, rfl, rfl⟩
  lock := by simp
  tenure := by simp

/-- The case of `renderEnds` is the one that turns on the lock: Rendering and Transmitting both hold it (R27). -/
theorem MachineInv.of_stage {s t : State} (h : MachineInv s) (hst : Stage s t) : MachineInv t := by
  cases hst with
  | interface hp =>
    refine ⟨h.memory, fun hf => ?_, fun hf => ?_, h.lock, h.tenure⟩
    · have l := h.live hf
      exact l.keep rfl rfl rfl rfl l.resetRegion l.rpos
    · have g := h.gone hf
      exact ⟨g.br, g.buf, g.role, g.nameOf, (hp hf).trans g.pending, g.wire, g.cfg⟩
  | begins hf =>
    have l := h.live hf
    exact ⟨h.memory, fun _ => l.keep rfl (by simp) rfl rfl l.resetRegion l.rpos, by simp, by simp, by simp⟩
  | renders hf =>
    have l := h.live (by simp [hf])
    obtain ⟨-, hmem, -⟩ := renderPass_spec h.memory l.registers
    exact ⟨hmem, fun _ => l.afterPass h.memory, by simp [hf], h.lock, h.tenure⟩
  | renderEnds hf =>
    have l := h.live (by simp [hf])
    obtain ⟨-, hmem, -⟩ := renderPass_spec h.memory l.registers
    have l' := l.afterPass h.memory
    have held : s.lock = .held := h.lock.2 (.inl hf)
    exact ⟨hmem, fun _ => l'.keep rfl rfl rfl rfl l'.resetRegion l'.rpos, by simp, by simp [held], h.tenure⟩
  | transmits hf =>
    have l := h.live (by simp [hf])
    exact ⟨h.memory, fun _ => l.keep rfl rfl rfl rfl l.resetRegion l.rpos, by simp [hf], h.lock, h.tenure⟩
  | @ends r hf =>
    have l := h.live (by simp [hf])
    have hz : ResetRegionZero (endTenure s r) := fun a ha => by
      rw [endTenure_buf]
      exact l.resetRegion a (by simpa using ha)
    have live : LiveInv (endTenure s r) :=
      l.keep (by simp) (by simp) (by simp) (by simp) hz (by simpa using l.rpos)
    exact ⟨by simpa using h.memory, fun _ => live, by simp, by simp, by simp⟩
  | constructs hleds hne hk hp => exact constructed_machineInv s hleds hne hk hp
  | removes => exact removed_machineInv s

theorem MachineInv.of_stages {s t : State} (h : MachineInv s) (hst : Stages s t) : MachineInv t := by
  induction hst with
  | refl => exact h
  | tail _ hst ih => exact ih.of_stage hst

/-- Settles O48: a step is a sequence of stages, and each keeps the invariant. -/
theorem stepKeepsTheInvariant : Obligations.StepKeepsTheInvariant :=
  fun _ _ h hst => h.of_stages (step_stages hst)

/-- Reset is the Device that `CONSTRUCT({})` makes at the reference parameters (R35, R232). -/
theorem reset_eq_constructed : State.reset = constructed State.reset Config.reference 1 Config.defaultOrder := rfl

/-- Settles O47: reset is a constructed Device. -/
theorem resetMeetsTheInvariant : Obligations.ResetMeetsTheInvariant := by
  unfold Obligations.ResetMeetsTheInvariant
  rw [reset_eq_constructed]
  exact constructed_machineInv _ (by decide) (by decide) (by decide) (by decide)

/-- Settles O46: the geometry and the reset region are those of the invariant; the rest is the reset state as it is
written. -/
theorem resetLeavesTheTable : Obligations.ResetLeavesTheTable := by
  have l : LiveInv State.reset := resetMeetsTheInvariant.live (by decide)
  exact ⟨by decide, l.registers, l.resetRegion, rfl, rfl, rfl, rfl, rfl, rfl, l.size, rfl, rfl, rfl⟩

end Sys2Proof.Machine
end

section
/-!
PROOF. No torn frame (10_state.md R33, 20_memory.md R59 c, 44_update_coordinator.md R184): a pass over a sound Device
leaves FRAME of the registers, and only that is handed to the transmitter.
-/
namespace Sys2Proof.Machine

/-- Settles O49: no SET has completed and nothing is on WIRE. -/
theorem resetHasNoTornFrame : Obligations.ResetHasNoTornFrame :=
  ⟨fun _ h => absurd rfl h, fun h => absurd h (by decide), fun _ h => absurd h List.not_mem_nil⟩

/-- FRAME comes into the buffer at the end of the pass, and stays there until the tenure ends. -/
theorem FrameInv.of_stage {s t : State} (h : FrameInv s) (hm : MachineInv s) (hst : Stage s t) : FrameInv t := by
  cases hst with
  | interface _ => exact ⟨h.idle, h.transmitting, h.wire⟩
  | begins _ => exact ⟨by simp, by simp, h.wire⟩
  | renders hf => exact ⟨by simp [hf], by simp [hf], h.wire⟩
  | renderEnds hf =>
    have l := hm.live (by simp [hf])
    exact ⟨by simp, fun _ => snapshot_renderPass hm.memory l.registers l.resetRegion, h.wire⟩
  | transmits hf =>
    have l := hm.live (by simp [hf])
    have hsnap := h.transmitting hf
    refine ⟨by simp [hf], fun _ => hsnap, fun e he => ?_⟩
    obtain he | rfl := by simpa using he
    · exact h.wire e he
    · exact ⟨s.br, l.registers, hsnap⟩
  | @ends r hf =>
    have hsnap : snapshot (endTenure s r) = snapshot s := snapshot_congr (by simp) (by simp)
    exact ⟨fun _ _ => by simpa [hsnap] using h.transmitting hf, by simp, by simpa using h.wire⟩
  | constructs => exact ⟨by simp, by simp, by simp⟩
  | removes => exact ⟨by simp, by simp, by simp⟩

theorem FrameInv.of_stages {s t : State} (h : FrameInv s) (hm : MachineInv s) (hst : Stages s t) : FrameInv t := by
  induction hst with
  | refl => exact h
  | tail hs hst ih => exact ih.of_stage (hm.of_stages hs) hst

/-- Settles O50: a step is a sequence of stages, and none of them tears a frame. -/
theorem noStepTearsAFrame : Obligations.NoStepTearsAFrame :=
  fun _ _ hm h hst => h.of_stages hm (step_stages hst)

end Sys2Proof.Machine
end

section
/-!
PROOF. The tenure in steps is the SET at once (20_memory.md R58, 44_update_coordinator.md R175, R176): requests that
arrive while a stage runs could as well arrive after it, so the stages of the phased run are those of `runTenure`.
-/
namespace Sys2Proof.Machine

/-! The steps of a tenure -/

/-- A SET that may take the lock is started, and only that (R176). -/
theorem serve_set_of_mayBegin {s : State} {c : Nat} (h : mayBegin s c = true) (v : Byte) :
    serve (.set c v) s = .next (beginTenure s c v) :=
  if_pos h

/-- What arrives at a step of the machine is what the choice drawn issues. -/
theorem arrivalsOf_drawn (s : State) : arrivalsOf (drawn s).issued s = arrivals s := rfl

/-- In Rendering the step is the pass and its end, over what arrives meanwhile. -/
theorem step_of_rendering {s : State} (hp : s.port = none) (hf : s.fsm = .rendering) (hd : deviceOk s = true) :
    step s = .next (renderEnds (renderPass (arrivals s))) := by
  have hr : exec .render (arrivals s) = .next (renderPass (arrivals s)) := execRender_next.2 ⟨hf, hd, rfl⟩
  calc step s = renderingMove (arrivals s) := by simp only [step_eq_nextStepBy, nextStepBy, hp, hf, arrivalsOf_drawn]
    _ = .next (renderEnds (renderPass (arrivals s))) := by simp only [renderingMove, hr]

/-- In Transmitting the step is TRANSMIT and the end of the tenure, over what arrives meanwhile. -/
theorem step_of_transmitting {s : State} (hp : s.port = none) (hf : s.fsm = .transmitting) :
    step s = .next (endTenure (transmitFrame (arrivals s) (nextTxResult (arrivals s)))
      (nextTxResult (arrivals s))) := by
  have ht : exec .transmit (arrivals s) = .next (transmitFrame (arrivals s) (nextTxResult (arrivals s))) :=
    execTransmit_next.2 ⟨hf, rfl⟩
  calc step s = transmittingMove (arrivals s) := by simp only [step_eq_nextStepBy, nextStepBy, hp, hf, arrivalsOf_drawn]
    _ = _ := by simp only [transmittingMove, ht]

theorem run_two_of_steps {s t u : State} (h₁ : core.step s = .next t) (h₂ : core.step t = .next u) :
    core.run 2 s = .next u := by
  simp only [Host.Core.run, h₁, h₂]

/-! Arrivals commute with every stage of a tenure -/

section Commute
variable (qs : List Request) (s : State) (r : TxResult)

theorem renderPass_arrivalsOf : renderPass (arrivalsOf qs s) = arrivalsOf qs (renderPass s) := rfl

theorem renderEnds_arrivalsOf : renderEnds (arrivalsOf qs s) = arrivalsOf qs (renderEnds s) := rfl

theorem transmitFrame_arrivalsOf : transmitFrame (arrivalsOf qs s) r = arrivalsOf qs (transmitFrame s r) := rfl

theorem endTenure_arrivalsOf : endTenure (arrivalsOf qs s) r = arrivalsOf qs (endTenure s r) := by
  unfold endTenure
  rw [arrivalsOf_tenure]
  cases s.tenure <;> rfl

end Commute

/-- Arrivals during the pass and during TRANSMIT leave the tenure as it is without them: they only come after it. -/
theorem tenure_with_arrivals (s : State) (c : Nat) (v : Byte) (r : TxResult) (qs₁ qs₂ : List Request) :
    endTenure (transmitFrame (arrivalsOf qs₂ (renderEnds (renderPass (arrivalsOf qs₁ (beginTenure s c v))))) r) r =
      arrivalsOf qs₂ (arrivalsOf qs₁ (runTenure s c v r)) := by
  simp only [renderPass_arrivalsOf, renderEnds_arrivalsOf, transmitFrame_arrivalsOf, endTenure_arrivalsOf, runTenure]

/-- Beginning a tenure changes no size of the Device. -/
theorem deviceOk_beginTenure {s : State} (h : deviceOk s = true) (c : Nat) (v : Byte) :
    deviceOk (beginTenure s c v) = true := by
  simpa [deviceOk_iff] using h

/-- Two steps after a SET has begun, its tenure is over, with what was issued at the two steps in PENDING. -/
theorem run_two_of_beginTenure {s : State} (hp : s.port = none) (hd : deviceOk s = true) (c : Nat) (v : Byte) :
    ∃ qs₁ qs₂ r,
      core.run 2 (beginTenure s c v) = .next (arrivalsOf qs₂ (arrivalsOf qs₁ (runTenure s c v r))) := by
  have hrender := step_of_rendering (s := beginTenure s c v) hp rfl (deviceOk_beginTenure hd c v)
  have htransmit := step_of_transmitting (s := renderEnds (renderPass (arrivals (beginTenure s c v)))) hp rfl
  exact ⟨_, _, _, (run_two_of_steps hrender htransmit).trans
    (congrArg Host.Outcome.next (tenure_with_arrivals s c v _ _ _))⟩

/-- Settles O29: the SET begins, and after the two steps the state is that of the whole tenure with the requests issued
at the two steps appended. -/
theorem phasedTenureIsTheSet : Obligations.PhasedTenureIsTheSet := by
  intro s c v hp _ hl hlen hc
  have hd := deviceOk_of_lengthOk hlen
  have hbegin : mayBegin s c = true := by simp [mayBegin, validIndex_iff, hc, hl, hd]
  obtain ⟨qs₁, qs₂, r, hrun⟩ := run_two_of_beginTenure hp hd c v
  exact ⟨_, _, r, serve_set_of_mayBegin hbegin v, hrun, ⟨qs₁ ++ qs₂, by simp⟩, rfl⟩

end Sys2Proof.Machine
end

section
/-!
PROOF. Command words and symbols (30_encoding.md R80 to R91): the fields of a word that was put together, what the
decoders say of them, and the response word.
-/
namespace Sys2Proof.Machine

/-! The fields of a command word (R86) -/

section Fields
variable (op : BitVec 4) {c : Nat} (v : Byte) (w : Word)

@[simp] theorem opField_commandWord (c : Nat) : opField (commandWord op c v) = op := by
  rw [opField, commandWord, BitVec.extractLsb'_append_eq_of_le (by decide), BitVec.extractLsb'_append_eq_left]

@[simp] theorem valField_commandWord (c : Nat) : valField (commandWord op c v) = v :=
  BitVec.extractLsb'_append_eq_right

theorem chanField_commandWord (hc : c < 2 ^ 20) : (chanField (commandWord op c v)).toNat = c := by
  rw [chanField, commandWord, BitVec.extractLsb'_append_eq_of_le (by decide), BitVec.extractLsb'_append_eq_right,
    BitVec.toNat_ofNat, Nat.mod_eq_of_lt hc]

/-- A word is put together from its own fields: they cover all 32 bits. -/
theorem commandWord_fields : commandWord (opField w) (chanField w).toNat (valField w) = w := by
  have hhigh : opField w ++ chanField w = w.extractLsb' 8 24 := BitVec.extractLsb'_append_extractLsb'_eq_extractLsb' rfl
  rw [commandWord, BitVec.ofNat_toNat, BitVec.setWidth_eq, hhigh]
  exact BitVec.extractLsb'_append_extractLsb'

/-- Every word is the one of some operation code, an index that the field `chan` holds, and a value. -/
theorem exists_commandWord : ∃ op c v, c < 2 ^ 20 ∧ w = commandWord op c v :=
  ⟨opField w, (chanField w).toNat, valField w, (chanField w).isLt, (commandWord_fields w).symm⟩

/-- The fields do not overlap, so the word is their sum. -/
theorem commandWord_eq_ofNat (hc : c < 2 ^ 20) :
    commandWord op c v = BitVec.ofNat 32 (op.toNat * 2 ^ 28 + c * 2 ^ 8 + v.toNat) := by
  have hv : v.toNat < 2 ^ 8 := v.isLt
  refine BitVec.eq_of_toNat_eq ?_
  rw [commandWord, BitVec.toNat_append, BitVec.toNat_append, BitVec.toNat_ofNat, BitVec.toNat_ofNat,
    Nat.mod_eq_of_lt hc, ← Nat.shiftLeft_add_eq_or_of_lt hc, ← Nat.shiftLeft_add_eq_or_of_lt hv,
    Nat.shiftLeft_eq, Nat.shiftLeft_eq]
  omega

/-- Bits 31:28 read as a number. -/
theorem shiftRight_28_eq_iff : w >>> 28 = op.setWidth 32 ↔ opField w = op := by
  have hfield : (opField w).toNat = w.toNat >>> 28 % 2 ^ 4 := BitVec.extractLsb'_toNat 28 4 w
  rw [← BitVec.toNat_inj, ← BitVec.toNat_inj, hfield, BitVec.toNat_ushiftRight, BitVec.toNat_setWidth]
  have := w.isLt
  omega

/-- Bits 7:0 read as a number. -/
theorem and_0xFF_eq_zero_iff : w &&& 0xFF#32 = 0#32 ↔ valField w = 0#8 := by
  have hfield : (valField w).toNat = w.toNat % 2 ^ 8 := BitVec.extractLsb'_toNat 0 8 w
  have hmask : (w &&& 0xFF#32).toNat = w.toNat % 2 ^ 8 := Nat.and_two_pow_sub_one_eq_mod _ 8
  rw [← BitVec.toNat_inj, ← BitVec.toNat_inj, hfield, hmask]
  rfl

end Fields

/-- Settles O40: the word is the sum of its fields, with operation code 1 for SET, and 2 and no value for GET. -/
theorem commandWordsAsNumbers : Obligations.CommandWordsAsNumbers := by
  intro p c v hc
  exact ⟨congrArg (some <| Fetch.command ·) (commandWord_eq_ofNat 0x1#4 v hc),
    congrArg (some <| Fetch.command ·) (commandWord_eq_ofNat 0x2#4 0#8 hc)⟩

/-! The decoders -/

/-- What a word is decoded to, in its fields (R87 to R90). -/
theorem decodeCommand_commandWord (op : BitVec 4) {c : Nat} (v : Byte) (hc : c < 2 ^ 20) :
    decodeCommand (commandWord op c v) =
      if op = 0x1#4 then .ok (.set c v)
      else if op = 0x2#4 then if v = 0#8 then .ok (.get c) else .error .reservedVal
      else .error .reservedOp := by
  rw [decodeCommand, opField_commandWord, valField_commandWord, chanField_commandWord op v hc]

/-- The words of SET and GET are the only ones that decode. -/
theorem encode_of_decodeCommand (p : Params) {w : Word} {i : Instr} (h : decodeCommand w = .ok i) :
    encode p i = some (.command w) ∧ i.wf = true := by
  obtain ⟨op, c, v, hc, rfl⟩ := exists_commandWord w
  have hwf : wfChan c = true := decide_eq_true hc
  rw [decodeCommand_commandWord op v hc] at h
  split at h
  · next hop =>
    cases h
    exact ⟨by rw [encode, hop], hwf⟩
  · split at h
    · next hop =>
      split at h
      · next hv =>
        cases h
        exact ⟨by rw [encode, hop, hv], hwf⟩
      · cases h
    · cases h

/-- Distinct symbols are told apart (R121). -/
theorem symDecode_encodeBit {p : Params} (h : p.sym0 ≠ p.sym1) (b : Bool) : symDecode p (encodeBit p b) = some b := by
  cases b with
  | false => exact if_pos rfl
  | true => exact (if_neg h.symm).trans (if_pos rfl)

theorem encodeBit_of_symDecode {p : Params} {y : Nat} {b : Bool} (h : symDecode p y = some b) : encodeBit p b = y := by
  unfold symDecode at h
  split at h
  · next hy => cases h; exact hy.symm
  · split at h
    · next hy => cases h; exact hy.symm
    · cases h

/-- The symbol of a bit is read as the operation that produces it (R116, R117). -/
theorem decodeSymbol_encodeBit {p : Params} (h : p.sym0 ≠ p.sym1) (b : Bool) :
    decodeSymbol p (encodeBit p b) = .ok (if b then .sym1 else .sym0) := by
  rw [decodeSymbol, symDecode_encodeBit h]
  cases b <;> rfl

theorem encode_of_decodeSymbol {p : Params} {y : Nat} {i : Instr} (h : decodeSymbol p y = .ok i) :
    encode p i = some (.symbol y) ∧ i.wf = true := by
  unfold decodeSymbol at h
  split at h
  · next hb => cases h; rw [← encodeBit_of_symDecode hb]; exact ⟨rfl, rfl⟩
  · next hb => cases h; rw [← encodeBit_of_symDecode hb]; exact ⟨rfl, rfl⟩
  · cases h

theorem decodeFetch_of_encode {p : Params} {i : Instr} {f : Fetch} (hp : p.sym0 ≠ p.sym1) (hwf : i.wf = true)
    (h : encode p i = some f) : decodeFetch p f = .ok i := by
  cases i with
  | sym0 => cases h; exact decodeSymbol_encodeBit hp false
  | sym1 => cases h; exact decodeSymbol_encodeBit hp true
  | set c v => cases h; exact decodeCommand_commandWord 0x1#4 v (of_decide_eq_true hwf)
  | get c => cases h; exact decodeCommand_commandWord 0x2#4 0#8 (of_decide_eq_true hwf)
  | bufsize | encode | render | decode | transmit | construct | teardown => cases h

/-- Settles O41: one way by the operation, the other by what stands at the port. -/
theorem decodeAndEncodeAgree : Obligations.DecodeAndEncodeAgree := by
  refine ⟨fun _ _ _ => decodeFetch_of_encode, fun p i f h => ?_⟩
  cases f with
  | command w => exact encode_of_decodeCommand p h
  | symbol y => exact encode_of_decodeSymbol h

/-! Reserved words -/

/-- The reserved words by their fields (R89). -/
theorem decodeCommand_error_iff (w : Word) :
    (∃ e, decodeCommand w = .error e) ↔
      (opField w ≠ 0x1#4 ∧ opField w ≠ 0x2#4) ∨ (opField w = 0x2#4 ∧ valField w ≠ 0#8) := by
  unfold decodeCommand
  by_cases h1 : opField w = 0x1#4
  · simp [h1]
  · by_cases h2 : opField w = 0x2#4 <;> by_cases hv : valField w = 0#8 <;> simp [h1, h2, hv]

theorem runPort_of_reserved {w : Word} {s : State} {e : DecodeError} (h : decodeCommand w = .error e) :
    runPort (.command w) s = badCommand (.word w) s := by
  simp only [runPort, decodeFetch, h]

/-- Settles O42: the fields as numbers, and the step that finds such a word at the port. -/
theorem reservedWordsAnswerBadCommand : Obligations.ReservedWordsAnswerBadCommand := by
  intro s w
  have hop1 : w >>> 28 = 1#32 ↔ opField w = 0x1#4 := shiftRight_28_eq_iff 0x1#4 w
  have hop2 : w >>> 28 = 2#32 ↔ opField w = 0x2#4 := shiftRight_28_eq_iff 0x2#4 w
  refine ⟨?_, fun hf hp ⟨e, he⟩ => ?_⟩
  · simp only [decodeCommand_error_iff, ne_eq, hop1, hop2, and_0xFF_eq_zero_iff]
  · calc step s = runPort (.command w) { s with port := none } := step_of_port hp
      _ = badCommand (.word w) { s with port := none } := runPort_of_reserved he
      _ = .next (answer { s with port := none } (.word w) 0x0300#16) := badCommand_next.2 ⟨hf, rfl⟩

/-- Settles O43: each word is run through the decoder. -/
theorem sampleWordsDecode : Obligations.SampleWordsDecode := by
  unfold Obligations.SampleWordsDecode
  decide

/-! The response word (R91) -/

section RspWord
variable (status : BitVec 4) (data : Byte)

theorem rspWord_reserved : (rspWord status data).extractLsb' 12 4 = 0#4 := by
  rw [rspWord, BitVec.extractLsb'_append_eq_of_le (by decide), BitVec.extractLsb'_append_eq_left]

theorem rspWord_status : (rspWord status data).extractLsb' 8 4 = status := by
  rw [rspWord, BitVec.extractLsb'_append_eq_of_le (by decide), BitVec.extractLsb'_append_eq_right]

theorem rspWord_data : (rspWord status data).extractLsb' 0 8 = data :=
  BitVec.extractLsb'_append_eq_right

end RspWord

/-- Settles O44: the three fields; the codes are those of the definitions. -/
theorem responseWordLayout : Obligations.ResponseWordLayout := fun status data _ =>
  ⟨rspWord_reserved status data, rspWord_status status data, rspWord_data status data,
    rfl, rfl, rfl, rfl, rfl, rfl, rfl, rfl, rfl, rfl⟩

end Sys2Proof.Machine
end

section
/-!
PROOF. The bytes of FRAME at the reference symbols (30_encoding.md R84): every logical bit is sent as high, the bit
itself, low, so a channel is 24 bus-bits and fills three bytes.
-/
namespace Sys2Proof.Machine

/-- A byte of FRAME packs its eight bus-bits (R137). -/
theorem frame_getD (c : Cfg) (br : List Byte) {a : Nat} (ha : a < c.s) :
    (frame c br).getD a 0#8 = packByte fun i => frameBit c br (8 * a + i) := by
  simp [frame, ha]

theorem packByte_congr {f g : Nat → Bool} (h : ∀ i, i < 8 → f i = g i) : packByte f = packByte g :=
  BitVec.eq_of_getLsbD_eq fun i hi => by
    rw [packByte_getLsbD f hi, packByte_getLsbD g hi, h _ (by omega)]

/-- Bus-bit `x` of the 24 of a channel of value `v`, at the reference symbols: sub-bit 2 of both symbols is 1, sub-bit 1
is the logical bit, sub-bit 0 of both is 0 (R81). -/
def referenceBit (v : Byte) (x : Nat) : Bool :=
  if x % 3 = 0 then true else if x % 3 = 1 then v.getLsbD (7 - x / 3) else false

theorem subBit_encodeBit_reference (b : Bool) {u : Nat} (hu : u < 3) :
    subBit (encodeBit Config.reference b) (2 - u) = if u = 0 then true else if u = 1 then b else false := by
  revert b u
  decide

theorem frameBit_reference {c : Cfg} (hp : c.params = Config.reference) (br : List Byte) {k x : Nat} (hk : k < c.n)
    (hx : x < 24) : frameBit c br (24 * k + x) = referenceBit (br.getD k 0#8) x := by
  have hw : Config.reference.w = 3 := rfl
  have hlt : 24 * k + x < 8 * c.n * 3 := by omega
  have hchan : (24 * k + x) / 3 / 8 = k := by omega
  have hbit : (24 * k + x) / 3 % 8 = x / 3 := by omega
  have hsub : (24 * k + x) % 3 = x % 3 := by omega
  simp only [frameBit, hp, hw, if_pos hlt, hchan, hbit, hsub]
  exact subBit_encodeBit_reference _ (Nat.mod_lt x (by decide))

/-- Byte `r` of the three of channel `k` packs its third of the 24 bus-bits. -/
theorem frame_getD_reference {c : Cfg} (hp : c.params = Config.reference) (hs : c.n * c.params.w ≤ c.s)
    (br : List Byte) {k r : Nat} (hk : k < c.n) (hr : r < 3) :
    (frame c br).getD (3 * k + r) 0#8 = packByte fun i => referenceBit (br.getD k 0#8) (8 * r + i) := by
  have hw : c.params.w = 3 := by rw [hp]; rfl
  rw [hw] at hs
  rw [frame_getD c br (by omega)]
  refine packByte_congr fun i hi => ?_
  rw [show 8 * (3 * k + r) + i = 24 * k + (8 * r + i) by ring, frameBit_reference hp br hk (by omega)]

/-- A logical bit as a byte, as the formulas of R84 take it. -/
def bitByte (b : Bool) : Byte := if b then 1#8 else 0#8

/-- E0: high, b7, low, high, b6, low, high, b5. -/
theorem packByte_E0 (v : Byte) : packByte (fun i => referenceBit v (8 * 0 + i)) =
    0x92#8 ||| (bitByte (v.getLsbD 7) <<< 6) ||| (bitByte (v.getLsbD 6) <<< 3) ||| bitByte (v.getLsbD 5) := by
  have pack : ∀ b7 b6 b5, packByte (fun i => [true, b7, false, true, b6, false, true, b5].getD i false) =
      0x92#8 ||| (bitByte b7 <<< 6) ||| (bitByte b6 <<< 3) ||| bitByte b5 := by decide
  rw [← pack]
  exact packByte_congr fun i hi => by interval_cases i <;> rfl

/-- E1: low, high, b4, low, high, b3, low, high. -/
theorem packByte_E1 (v : Byte) : packByte (fun i => referenceBit v (8 * 1 + i)) =
    0x49#8 ||| (bitByte (v.getLsbD 4) <<< 5) ||| (bitByte (v.getLsbD 3) <<< 2) := by
  have pack : ∀ b4 b3, packByte (fun i => [false, true, b4, false, true, b3, false, true].getD i false) =
      0x49#8 ||| (bitByte b4 <<< 5) ||| (bitByte b3 <<< 2) := by decide
  rw [← pack]
  exact packByte_congr fun i hi => by interval_cases i <;> rfl

/-- E2: b2, low, high, b1, low, high, b0, low. -/
theorem packByte_E2 (v : Byte) : packByte (fun i => referenceBit v (8 * 2 + i)) =
    0x24#8 ||| (bitByte (v.getLsbD 2) <<< 7) ||| (bitByte (v.getLsbD 1) <<< 4) ||| (bitByte (v.getLsbD 0) <<< 1) := by
  have pack : ∀ b2 b1 b0, packByte (fun i => [b2, false, true, b1, false, true, b0, false].getD i false) =
      0x24#8 ||| (bitByte b2 <<< 7) ||| (bitByte b1 <<< 4) ||| (bitByte b0 <<< 1) := by decide
  rw [← pack]
  exact packByte_congr fun i hi => by interval_cases i <;> rfl

/-- Settles O17: each of the three bytes packs its part of the 24 bus-bits. -/
theorem referenceByteFormulas : Obligations.ReferenceByteFormulas := by
  intro c br k hp hs _ hk
  exact ⟨(frame_getD_reference hp hs br hk (by decide)).trans (packByte_E0 _),
    (frame_getD_reference hp hs br hk (by decide)).trans (packByte_E1 _),
    (frame_getD_reference hp hs br hk (by decide)).trans (packByte_E2 _)⟩

end Sys2Proof.Machine
end

section
/-!
PROOF. The Geometry Calculator (40_geometry.md R100 to R106), all from the closed form `bufSize_split`.
-/
namespace Sys2Proof.Machine

/-- Settles O1: BUFSIZE of a positive count completes, and its result is the formula. -/
theorem bufsizeReturnsTheFormula : Obligations.BufsizeReturnsTheFormula := fun _ _ hlive hn =>
  execBufsize_next.2 ⟨hlive, hn, rfl⟩

/-- The display region takes `n*W` of the bytes; the reset region is what is left, the same for every `n`. -/
theorem bufSize_sub_display (p : Params) (n : Nat) :
    bufSize p n - n * p.w = p.resetBits / 8 + p.trailerBytes := by
  rw [bufSize_split, Nat.add_assoc, Nat.add_sub_cancel_left]

theorem bufSize_succ (p : Params) (n : Nat) : bufSize p (n + 1) = bufSize p n + p.w := by
  rw [bufSize_split, bufSize_split]
  ring

theorem bufSize_reference (n : Nat) : bufSize Config.reference n = 3 * n + 20 := by
  rw [bufSize_split, Nat.mul_comm n, Nat.add_assoc]
  rfl

/-- Settles O2: the parts of the closed form. -/
theorem bufsizeClosedForm : Obligations.BufsizeClosedForm := fun p n =>
  ⟨bufSize_split p n, bufSize_sub_display p n, by rw [bufSize_succ, Nat.add_sub_cancel_left], bufSize_reference n⟩

theorem bufSize_monotone (p : Params) : Monotone (bufSize p) :=
  monotone_nat_of_le_succ fun n => by
    rw [bufSize_succ]
    exact Nat.le_add_right _ _

theorem bufSize_strictMono {p : Params} (hw : 1 ≤ p.w) : StrictMono (bufSize p) :=
  strictMono_nat_of_lt_succ fun n => by
    rw [bufSize_succ]
    exact Nat.lt_add_of_pos_right hw

/-- Settles O3: a channel more never takes a byte away; the trailer is part of the reset region, which stands after the
display region. -/
theorem bufsizeMonotoneAndRoomy : Obligations.BufsizeMonotoneAndRoomy := by
  intro p n m
  refine ⟨fun h => bufSize_monotone p h, fun hw h => bufSize_strictMono hw h, ?_, ?_⟩
  · rw [bufSize_sub_display]
    exact Nat.le_add_left _ _
  · rw [bufSize_split, Nat.add_assoc]
    exact Nat.le_add_right _ _

/-- Settles O4: the reset region has `8 * (RESET_BITS div 8)` bus-bits and those of the trailer, so `RESET_BITS mod 8` are
left for the trailer; these are fewer than the 8 of one byte. -/
theorem trailerAbsorbsTheRounding : Obligations.TrailerAbsorbsTheRounding := by
  intro p n
  constructor
  · rw [bufSize_sub_display, Nat.mul_add, ← Nat.sub_le_iff_le_add', ← Nat.mod_eq_sub]
  · rcases Nat.eq_zero_or_pos p.trailerBytes with hnone | hsome
    · simp [hnone]
    · have hrest : p.resetBits % 8 < 8 := Nat.mod_lt _ (by decide)
      exact iff_of_true (by omega) (Or.inl hsome)

end Sys2Proof.Machine
end

section
/-!
PROOF. The Bit Encoder (41_bit_encoder.md R115 to R121): its operations, the inverse of ENCODE, and the run shape of the
symbols in time.
-/
namespace Sys2Proof.Machine

/-! The operations and the inverse -/

/-- Settles O5: both inputs complete, with the symbol of the bit. -/
theorem encodeReturnsTheSymbol : Obligations.EncodeReturnsTheSymbol := fun _ hlive =>
  ⟨execEncode_next.2 ⟨hlive, rfl⟩, execEncode_next.2 ⟨hlive, rfl⟩⟩

/-- The two symbol operations are ENCODE of their bit (R116, R117), in every state. -/
theorem exec_sym0_eq_encode (s : State) : exec .sym0 s = exec (.encode false) s := rfl

theorem exec_sym1_eq_encode (s : State) : exec .sym1 s = exec (.encode true) s := rfl

/-- Settles O6: the symbol operations in a live state, and the reference patterns with their levels. -/
theorem symbolsReturnTheirPatterns : Obligations.SymbolsReturnTheirPatterns :=
  ⟨fun s hlive => ⟨execSym0_next.2 ⟨hlive, rfl⟩, execSym1_next.2 ⟨hlive, rfl⟩,
      exec_sym0_eq_encode s, exec_sym1_eq_encode s⟩,
    rfl, rfl, by decide, by decide⟩

/-- Settles O7: SYM0 and SYM1 are the symbols of the two bits, and a pattern that is read as a bit is that bit's
symbol. -/
theorem symdecodeInvertsEncode : Obligations.SymdecodeInvertsEncode := by
  intro p hne
  refine ⟨symDecode_encodeBit hne false, symDecode_encodeBit hne true, fun y h0 h1 => ?_, symDecode_encodeBit hne⟩
  cases hy : symDecode p y with
  | none => rfl
  | some b =>
    have hsym := encodeBit_of_symDecode hy
    cases b with
    | false => exact absurd hsym.symm h0
    | true => exact absurd hsym.symm h1

/-! The shape of a symbol in time (R119, R120) -/

/-- The levels in time of a symbol of `w` sub-bits that is high for the first `h` of them and low for the rest. -/
def highRun (w h : Nat) : List Bool := List.replicate h true ++ List.replicate (w - h) false

theorem highRun_eq_map {w h : Nat} (hh : h ≤ w) : highRun w h = (List.range w).map fun u => decide (u < h) := by
  refine List.ext_getElem (by simp [highRun, hh]) fun u _ _ => ?_
  simp [highRun, List.getElem_append]

/-- Period `u` carries sub-bit `w - 1 - u`: the first `h` periods are the upper `h` sub-bits. -/
theorem lineLevels_eq_highRun_iff {w y h : Nat} (hh : h ≤ w) :
    lineLevels w y = highRun w h ↔ ∀ t < w, y.testBit t = decide (w - h ≤ t) := by
  rw [highRun_eq_map hh, lineLevels, List.map_inj_left]
  simp only [List.mem_range, subBit]
  constructor
  · intro hperiod t ht
    have ht' := hperiod (w - 1 - t) (by omega)
    rw [Nat.sub_sub_self (by omega)] at ht'
    exact ht'.trans (decide_eq_decide.2 (by omega))
  · intro hsub u hu
    exact (hsub (w - 1 - u) (by omega)).trans (decide_eq_decide.2 (by omega))

/-- Time runs from sub-bit `w - 1` down: the levels are the sub-bits in reverse. -/
theorem lineLevels_eq_reverse (w y : Nat) : lineLevels w y = ((List.range w).map y.testBit).reverse := by
  simp [lineLevels, ← List.map_reverse, List.range_eq_range', List.reverse_range', subBit, Function.comp_def]

/-- The sub-bits that are 1 are the periods in which the line is high. -/
theorem highCount_eq_count (w y : Nat) : highCount w y = (lineLevels w y).count true := by
  rw [lineLevels_eq_reverse, List.count_reverse, highCount, ← List.countP_eq_length_filter, List.count,
    List.countP_map]
  simp [Function.comp_def]

theorem count_highRun (w h : Nat) : (highRun w h).count true = h := by
  simp [highRun, List.count_append, List.count_replicate]

theorem highThenLow_iff {w y : Nat} :
    highThenLow w y = true ↔ ∃ h, 0 < h ∧ h < w ∧ lineLevels w y = highRun w h := by
  simp only [highThenLow, List.any_eq_true, List.mem_range, Bool.and_eq_true, decide_eq_true_eq, List.all_eq_true,
    beq_iff_eq]
  constructor
  · rintro ⟨h, hw, hpos, hall⟩
    exact ⟨h, hpos, hw, (lineLevels_eq_highRun_iff hw.le).2 hall⟩
  · rintro ⟨h, hpos, hw, hrun⟩
    exact ⟨h, hw, hpos, (lineLevels_eq_highRun_iff hw.le).1 hrun⟩

/-- A symbol of run shape has as many 1s as its run of highs is long. -/
theorem highCount_of_highRun {w y h : Nat} (hrun : lineLevels w y = highRun w h) : highCount w y = h := by
  rw [highCount_eq_count, hrun, count_highRun]

/-- Settles O54: the run-shape check finds the two runs, and the high-time check compares their lengths. -/
theorem symbolsStartHighAndEndLow : Obligations.SymbolsStartHighAndEndLow := by
  intro p
  rw [Params.wfRunShape, Params.wfHighTime, Bool.and_eq_true, highThenLow_iff, highThenLow_iff, decide_eq_true_eq]
  constructor
  · rintro ⟨⟨⟨h₀, hpos, -, hrun₀⟩, h₁, -, hw, hrun₁⟩, hlt⟩
    rw [highCount_of_highRun hrun₀, highCount_of_highRun hrun₁] at hlt
    exact ⟨h₀, h₁, hpos, hlt, hw, hrun₀, hrun₁⟩
  · rintro ⟨h₀, h₁, hpos, hlt, hw, hrun₀, hrun₁⟩
    refine ⟨⟨⟨h₀, hpos, hlt.trans hw, hrun₀⟩, h₁, hpos.trans hlt, hw, hrun₁⟩, ?_⟩
    rwa [highCount_of_highRun hrun₀, highCount_of_highRun hrun₁]

end Sys2Proof.Machine
end

section
/-!
PROOF. The bus-bit positions of a frame (42_frame_renderer.md R136): each below `8*N*W` belongs to exactly one sub-bit,
and FRAME holds that sub-bit there (R137).
-/
namespace Sys2Proof.Machine

/-! The positions -/

section Position
variable {w k j u : Nat}

/-- The W bus-bits of one logical bit are its slot; slots follow each other most significant bit first. -/
theorem bitPosition_div (hu : u < w) : bitPosition w k j u / w = 8 * k + (7 - j) := by
  have hin : w - 1 - u < w := by omega
  rw [bitPosition, Nat.mul_add_div (by omega), Nat.div_eq_of_lt hin, Nat.add_zero]

/-- The place in its slot: most significant sub-bit first. -/
theorem bitPosition_mod (hu : u < w) : bitPosition w k j u % w = w - 1 - u := by
  rw [bitPosition, Nat.mul_add_mod, Nat.mod_eq_of_lt (by omega)]

theorem bitPosition_lt {n : Nat} (hk : k < n) (hu : u < w) : bitPosition w k j u < 8 * n * w :=
  (Nat.div_lt_iff_lt_mul (by omega)).1 (by rw [bitPosition_div hu]; omega)

/-- No two sub-bits share a position. -/
theorem bitPosition_injective {k' j' u' : Nat} (hj : j < 8) (hu : u < w) (hj' : j' < 8) (hu' : u' < w)
    (h : bitPosition w k j u = bitPosition w k' j' u') : k = k' ∧ j = j' ∧ u = u' := by
  have hslot : 8 * k + (7 - j) = 8 * k' + (7 - j') := by rw [← bitPosition_div hu, h, bitPosition_div hu']
  have hsub : w - 1 - u = w - 1 - u' := by rw [← bitPosition_mod hu, h, bitPosition_mod hu']
  omega

/-- Every bus-bit of the display region is the position of a sub-bit. -/
theorem exists_bitPosition {n q : Nat} (hq : q < 8 * n * w) :
    ∃ k j u, k < n ∧ j < 8 ∧ u < w ∧ q = bitPosition w k j u := by
  have hw : 0 < w := Nat.pos_of_ne_zero fun h0 => by simp [h0] at hq
  have hslot : q / w < 8 * n := (Nat.div_lt_iff_lt_mul hw).2 hq
  have hsub := Nat.mod_lt q hw
  refine ⟨q / w / 8, 7 - q / w % 8, w - 1 - q % w, by omega, by omega, by omega, ?_⟩
  rw [bitPosition, show 8 * (q / w / 8) + (7 - (7 - q / w % 8)) = q / w by omega,
    show w - 1 - (w - 1 - q % w) = q % w by omega, Nat.div_add_mod]

theorem lt_iff_exists_bitPosition {n q : Nat} :
    q < 8 * n * w ↔ ∃ k j u, k < n ∧ j < 8 ∧ u < w ∧ q = bitPosition w k j u :=
  ⟨exists_bitPosition, by rintro ⟨k, j, u, hk, -, hu, rfl⟩; exact bitPosition_lt hk hu⟩

end Position

/-! What FRAME holds there -/

/-- At `p(k, j, u)` FRAME holds sub-bit `u` of the symbol of bit `j` of channel `k`. -/
theorem frameBit_bitPosition {c : Cfg} (br : List Byte) {k j u : Nat} (hk : k < c.n) (hj : j < 8)
    (hu : u < c.params.w) :
    frameBit c br (bitPosition c.params.w k j u) =
      subBit (encodeBit c.params (logicalBit (br.getD k 0#8) j)) u := by
  have hchan : (8 * k + (7 - j)) / 8 = k := by omega
  have hbit : 7 - (8 * k + (7 - j)) % 8 = j := by omega
  have hsub : c.params.w - 1 - (c.params.w - 1 - u) = u := by omega
  simp only [frameBit, if_pos (bitPosition_lt hk hu), bitPosition_div hu, bitPosition_mod hu, hchan, hbit, hsub]

/-- Beyond the display region FRAME is zero. -/
theorem frameBit_beyond {c : Cfg} (br : List Byte) {x : Nat} (hx : ¬ x < 8 * c.n * c.params.w) :
    frameBit c br x = false :=
  if_neg hx

/-- The bus-bits of the bytes of FRAME are the bits of its closed form (R51, R137). -/
theorem busBit_frame (c : Cfg) (br : List Byte) {x : Nat} (hx : x < 8 * c.s) :
    busBit (frame c br) x = frameBit c br x := by
  rw [busBit, frame_getD c br (by omega), packByte_getLsbD _ (by omega)]
  congr 1
  omega

/-- The display region lies in the buffer. -/
theorem display_le_buffer {c : Cfg} (hs : c.n * c.params.w ≤ c.s) : 8 * c.n * c.params.w ≤ 8 * c.s := by
  rw [Nat.mul_assoc]
  exact Nat.mul_le_mul_left 8 hs

theorem busBit_frame_bitPosition {c : Cfg} (br : List Byte) (hs : c.n * c.params.w ≤ c.s) {k j u : Nat}
    (hk : k < c.n) (hj : j < 8) (hu : u < c.params.w) :
    busBit (frame c br) (bitPosition c.params.w k j u) =
      subBit (encodeBit c.params (logicalBit (br.getD k 0#8) j)) u := by
  rw [busBit_frame c br ((bitPosition_lt hk hu).trans_le (display_le_buffer hs)), frameBit_bitPosition br hk hj hu]

end Sys2Proof.Machine
end

section
/-!
PROOF. DECODE (42_frame_renderer.md R143): a slot is read most significant sub-bit first, a channel most significant bit
first, the channels in index order; and decoding a frame gives its values back (R144).
-/
namespace Sys2Proof.Machine

/-! The pattern of a slot -/

theorem symbolAt_lt (buf : List Byte) (q t : Nat) : symbolAt buf q t < 2 ^ t := by
  induction t with
  | zero => exact Nat.one_pos
  | succ t ih =>
    have hbit := Bool.toNat_lt (busBit buf (q + t))
    rw [symbolAt, Nat.pow_succ]
    omega

/-- The sub-bit read `u`-th is bit `t-1-u` of the pattern: reading one more sub-bit doubles the pattern. -/
theorem symbolAt_testBit (buf : List Byte) (q t : Nat) {u : Nat} (hu : u < t) :
    (symbolAt buf q t).testBit (t - 1 - u) = busBit buf (q + u) := by
  induction t with
  | zero => omega
  | succ t ih =>
    have hbit := Bool.toNat_lt (busBit buf (q + t))
    rw [symbolAt]
    rcases Nat.lt_succ_iff_lt_or_eq.1 hu with hlt | rfl
    · have hidx : t + 1 - 1 - u = (t - 1 - u) + 1 := by omega
      have hhalf : (2 * symbolAt buf q t + (busBit buf (q + t)).toNat) / 2 = symbolAt buf q t := by omega
      rw [hidx, Nat.testBit_succ, hhalf, ih hlt]
    · rw [Nat.add_sub_cancel, Nat.sub_self, Nat.testBit_zero]
      cases busBit buf (q + u) <;> simp

/-- Settles O15: the two facts about the pattern of a slot. -/
theorem slotPatternIsBigEndian : Obligations.SlotPatternIsBigEndian :=
  fun buf q w => ⟨symbolAt_lt buf q w, fun _ hu => symbolAt_testBit buf q w hu⟩

/-- A slot that holds the sub-bits of a W-bit symbol, most significant first, has that symbol as its pattern. -/
theorem symbolAt_eq {buf : List Byte} {q w y : Nat} (hy : y < 2 ^ w)
    (h : ∀ u, u < w → busBit buf (q + u) = subBit y (w - 1 - u)) : symbolAt buf q w = y := by
  refine Nat.eq_of_testBit_eq fun t => ?_
  by_cases ht : t < w
  · have hidx : w - 1 - (w - 1 - t) = t := by omega
    have hread := symbolAt_testBit buf q w (u := w - 1 - t) (by omega)
    rw [h _ (by omega), hidx] at hread
    exact hread
  · have hpow := Nat.pow_le_pow_right (n := 2) (by decide) (Nat.le_of_not_lt ht)
    rw [Nat.testBit_lt_two_pow ((symbolAt_lt buf q w).trans_le hpow), Nat.testBit_lt_two_pow (hy.trans_le hpow)]

/-! The slots of a channel -/

section Slots
variable (p : Params) (buf : List Byte) (k : Nat)

/-- The logical bit that slot `e` of channel `k` holds, `none` for invalid (R121, R143). -/
def slotBit (e : Nat) : Option Bool := symDecode p (symbolAt buf (p.w * (8 * k + e)) p.w)

variable {p buf k}

/-- One slot more is read exactly if that slot and all before it are valid. -/
theorem decodeSlots_succ_eq_some {i : Nat} {v : Byte} :
    decodeSlots p buf k (i + 1) = some v ↔
      ∃ v' d, decodeSlots p buf k i = some v' ∧ slotBit p buf k i = some d ∧
        (v' <<< 1) ||| (if d then 1#8 else 0#8) = v := by
  rw [decodeSlots, slotBit]
  cases decodeSlots p buf k i <;> cases symDecode p (symbolAt buf (p.w * (8 * k + i)) p.w) <;> simp

/-- Slots that hold the bits `f 0 .. f (i-1)` are read as these, shifted in one after the other. -/
theorem decodeSlots_of_slotBit {f : Nat → Bool} {i : Nat} (h : ∀ e, e < i → slotBit p buf k e = some (f e)) :
    decodeSlots p buf k i =
      some ((List.range i).foldl (fun (acc : Byte) e => (acc <<< 1) ||| (if f e then 1#8 else 0#8)) 0#8) := by
  induction i with
  | zero => rfl
  | succ i ih =>
    rw [List.range_succ, List.foldl_append]
    exact decodeSlots_succ_eq_some.2 ⟨_, _, ih fun e he => h e (by omega), h i (by omega), rfl⟩

theorem slotBit_isSome_of_decodeSlots {i : Nat} {v : Byte} (h : decodeSlots p buf k i = some v) :
    ∀ e, e < i → (slotBit p buf k e).isSome = true := by
  induction i generalizing v with
  | zero => omega
  | succ i ih =>
    obtain ⟨v', d, hrest, hlast, -⟩ := decodeSlots_succ_eq_some.1 h
    intro e he
    rcases Nat.lt_succ_iff_lt_or_eq.1 he with hlt | rfl
    · exact ih hrest e hlt
    · rw [hlast, Option.isSome_some]

/-- A channel is read as `v` exactly if its eight slots hold the bits of `v`, most significant first (R143). -/
theorem decodeSlots_eight_eq_some_iff {v : Byte} :
    decodeSlots p buf k 8 = some v ↔ ∀ e, e < 8 → slotBit p buf k e = some (v.getLsbD (7 - e)) := by
  constructor
  · intro h e he
    have hbits : ∀ e, e < 8 → slotBit p buf k e = some ((slotBit p buf k e).getD false) := by
      intro e he
      obtain ⟨b, hb⟩ := Option.isSome_iff_exists.1 (slotBit_isSome_of_decodeSlots h e he)
      rw [hb, Option.getD_some]
    have hv : packByte (fun e => (slotBit p buf k e).getD false) = v :=
      Option.some.inj ((decodeSlots_of_slotBit hbits).symm.trans h)
    rw [← hv, packByte_getLsbD _ (by omega), show 7 - (7 - e) = e by omega]
    exact hbits e he
  · intro h
    have hv : packByte (fun e => v.getLsbD (7 - e)) = v := BitVec.eq_of_getLsbD_eq fun i hi => by
      rw [packByte_getLsbD _ hi, show 7 - (7 - i) = i by omega]
    exact (decodeSlots_of_slotBit h).trans (congrArg some hv)

end Slots

/-! The channels of a buffer -/

section Channels
variable {p : Params} {buf : List Byte}

theorem decodeFrom_succ_eq_some {k m : Nat} {vs : List Byte} :
    decodeFrom p buf k (m + 1) = some vs ↔
      ∃ v vs', decodeSlots p buf k 8 = some v ∧ decodeFrom p buf (k + 1) m = some vs' ∧ v :: vs' = vs := by
  rw [decodeFrom]
  cases decodeSlots p buf k 8 <;> cases decodeFrom p buf (k + 1) m <;> simp

theorem decodeFrom_eq_some_iff {k m : Nat} {vs : List Byte} :
    decodeFrom p buf k m = some vs ↔
      vs.length = m ∧ ∀ i, i < m → decodeSlots p buf (k + i) 8 = some (vs.getD i 0#8) := by
  induction m generalizing k vs with
  | zero => simp [decodeFrom, eq_comm (a := [])]
  | succ m ih =>
    rw [decodeFrom_succ_eq_some]
    constructor
    · rintro ⟨v, vs', hv, hrest, rfl⟩
      obtain ⟨hlen, hslots⟩ := ih.1 hrest
      refine ⟨by rw [List.length_cons, hlen], fun i hi => ?_⟩
      cases i with
      | zero => exact hv
      | succ i =>
        rw [List.getD_cons_succ, Nat.add_comm i, ← Nat.add_assoc]
        exact hslots i (by omega)
    · rintro ⟨hlen, hslots⟩
      cases vs with
      | nil => cases hlen
      | cons v vs' =>
        refine ⟨v, vs', hslots 0 (by omega), ih.2 ⟨Nat.succ.inj hlen, fun i hi => ?_⟩, rfl⟩
        have hnext := hslots (i + 1) (by omega)
        rw [List.getD_cons_succ, Nat.add_comm i, ← Nat.add_assoc] at hnext
        exact hnext

/-- DECODE answers `vs` exactly if every slot holds its bit of `vs` (R143). -/
theorem decodeFrame_eq_some_iff {n : Nat} {vs : List Byte} :
    decodeFrame p buf n = some vs ↔
      vs.length = n ∧ ∀ k i, k < n → i < 8 → slotBit p buf k i = some ((vs.getD k 0#8).getLsbD (7 - i)) := by
  rw [decodeFrame, decodeFrom_eq_some_iff]
  refine and_congr_right fun _ => ?_
  constructor
  · intro h k i hk hi
    have hchan := h k hk
    rw [Nat.zero_add] at hchan
    exact decodeSlots_eight_eq_some_iff.1 hchan i hi
  · intro h k hk
    rw [Nat.zero_add]
    exact decodeSlots_eight_eq_some_iff.2 fun i hi => h k i hk hi

end Channels

/-- A short buffer is outside the contract of DECODE (R143; log 13). -/
theorem exec_decode_short {s : State} {buf : List Byte} {n : Nat} (hlive : s.fsm ≠ .unconstructed)
    (hshort : buf.length < n * s.cfg.params.w) : exec (.decode buf n) s = .refused .shortBuffer :=
  (if_neg hlive).trans (if_pos hshort)

/-- Settles O14: on a long enough buffer DECODE completes, and its answer is characterised slot by slot. -/
theorem decodeReadsEverySlot : Obligations.DecodeReadsEverySlot := by
  intro s buf n hlive
  refine ⟨fun hlong => ⟨_, execDecode_next.2 ⟨hlive, hlong, rfl⟩, fun vs => decodeFrame_eq_some_iff⟩, ?_⟩
  exact exec_decode_short hlive

/-! Decoding a frame (R144) -/

theorem encodable_iff {p : Params} :
    encodable p = true ↔ 1 ≤ p.w ∧ p.sym0 < 2 ^ p.w ∧ p.sym1 < 2 ^ p.w ∧ p.sym0 ≠ p.sym1 := by
  simp [encodable, Params.wfWidth, Params.wfSym0, Params.wfSym1, Params.wfDistinct, and_assoc]

theorem encodeBit_lt {p : Params} (h0 : p.sym0 < 2 ^ p.w) (h1 : p.sym1 < 2 ^ p.w) (b : Bool) :
    encodeBit p b < 2 ^ p.w := by
  cases b
  · exact h0
  · exact h1

section RoundTrip
variable {c : Cfg} (henc : encodable c.params = true) (hs : c.n * c.params.w ≤ c.s) (br : List Byte)
include henc hs

/-- Slot `i` of channel `k` of a frame holds bit `7-i` of the channel's value. -/
theorem slotBit_frame {k i : Nat} (hk : k < c.n) (hi : i < 8) :
    slotBit c.params (frame c br) k i = some ((br.getD k 0#8).getLsbD (7 - i)) := by
  obtain ⟨-, h0, h1, hne⟩ := encodable_iff.1 henc
  have hsym : symbolAt (frame c br) (c.params.w * (8 * k + i)) c.params.w =
      encodeBit c.params (logicalBit (br.getD k 0#8) (7 - i)) := by
    refine symbolAt_eq (encodeBit_lt h0 h1 _) fun u hu => ?_
    have hpos : c.params.w * (8 * k + i) + u = bitPosition c.params.w k (7 - i) (c.params.w - 1 - u) := by
      rw [bitPosition, show 7 - (7 - i) = i by omega, show c.params.w - 1 - (c.params.w - 1 - u) = u by omega]
    rw [hpos, busBit_frame_bitPosition br hs hk (by omega) (by omega)]
  rw [slotBit, hsym, symDecode_encodeBit hne]
  rfl

theorem decodeFrame_frame (hlen : br.length = c.n) : decodeFrame c.params (frame c br) c.n = some br :=
  decodeFrame_eq_some_iff.2 ⟨hlen, fun _ _ hk hi => slotBit_frame henc hs br hk hi⟩

end RoundTrip

/-- Settles O13: DECODE undoes FRAME, and a function that can be undone is injective. -/
theorem frameRoundTrip : Obligations.FrameRoundTrip := by
  intro c br br' henc hs hlen hlen'
  refine ⟨decodeFrame_frame henc hs br hlen, fun hframe => Option.some.inj ?_⟩
  rw [← decodeFrame_frame henc hs br hlen, hframe, decodeFrame_frame henc hs br' hlen']

end Sys2Proof.Machine
end

section
/-!
PROOF. RENDER as a walk (42_frame_renderer.md R133 to R140): one cursor step, the order of the bit writes, where the
walk stops, and what the buffer holds after it.
-/
namespace Sys2Proof.Machine

/-! One cursor step (R133) -/

section Step
variable {p : Pass} (b : Bool)

theorem putBit_getLsbD (hm : memWf p.buf) {i : Nat} (hi : i < 8) :
    (memRead (putBit p b).buf p.rpos.byteCur).getLsbD i =
      if i = p.rpos.bitCur.val then b else (memRead p.buf p.rpos.byteCur).getLsbD i := by
  rw [← setBit_getLsbD _ _ _ _ hi]
  exact congrArg (·.getLsbD i) (memRead_memWrite_same _ _ hm)

theorem putBit_memRead_other {a : Nat} (ha : a ≠ p.rpos.byteCur) : memRead (putBit p b).buf a = memRead p.buf a :=
  memRead_memWrite_other _ ha

theorem cursorStep_of_zero {r : RPos} (h : r.bitCur = 0) :
    cursorStep r = { r with byteCur := r.byteCur + 1, bitCur := 7 } :=
  if_pos h

theorem cursorStep_of_ne_zero {r : RPos} (h : r.bitCur ≠ 0) : cursorStep r = { r with bitCur := r.bitCur - 1 } :=
  if_neg h

end Step

/-- Settles O8: the byte at the cursor, the other bytes, and the two cases of the cursor step. -/
theorem cursorStepReplacesOneBit : Obligations.CursorStepReplacesOneBit := by
  intro p b hm
  refine ⟨fun i hi => putBit_getLsbD b hm hi, fun a ha => putBit_memRead_other b ha, cursorStep_of_zero,
    fun h => ?_⟩
  have hstep : (putBit p b).rpos = { p.rpos with bitCur := p.rpos.bitCur - 1 } := cursorStep_of_ne_zero h
  rw [hstep]
  exact ⟨Fin.val_sub_one_of_ne_zero h, rfl⟩

/-! A walk over a list of bits -/

/-- Before the bit write number `bits.length` the cursors stand at that position (R136). -/
theorem cursorAt_foldl_putBit (bits : List Bool) {p : Pass} {q : Nat} (hc : CursorAt p.rpos q) :
    CursorAt (bits.foldl putBit p).rpos (q + bits.length) := by
  induction bits generalizing p q with
  | nil => exact hc
  | cons b bits ih =>
    rw [List.length_cons, Nat.add_comm bits.length, ← Nat.add_assoc]
    exact ih (cursorStep_next hc)

theorem foldl_putBit_wrote (bits : List Bool) {p : Pass} {q : Nat} (hm : memWf p.buf) (hc : CursorAt p.rpos q) :
    Wrote p (bits.foldl putBit p) q bits.length (fun i => bits.getD i false) := by
  induction bits generalizing p q with
  | nil => exact .nil hc hm rfl _
  | cons b bits ih =>
    have h₁ := putBit_wrote hm hc b
    have h := h₁.append (ih h₁.memory h₁.cursor)
    rw [Nat.add_comm 1] at h
    refine h.congr fun i _ => ?_
    cases i with
    | zero => rfl
    | succ i => rw [if_neg (by omega), Nat.add_sub_cancel, List.getD_cons_succ]

/-! The loops of RENDER as such walks (R130 to R132) -/

/-- The part of a pass that bit writes read and write: the buffer and the cursors, without the loop counters. -/
def Pass.atCursors (p : Pass) : Memory × Nat × Fin 8 := (p.buf, p.rpos.byteCur, p.rpos.bitCur)

theorem putBit_atCursors {p p' : Pass} (h : p.atCursors = p'.atCursors) (b : Bool) :
    (putBit p b).atCursors = (putBit p' b).atCursors := by
  obtain ⟨buf, ch, lb, sb, byteCur, bitCur⟩ := p
  obtain ⟨buf', ch', lb', sb', byteCur', bitCur'⟩ := p'
  obtain ⟨rfl, rfl, rfl⟩ : buf = buf' ∧ byteCur = byteCur' ∧ bitCur = bitCur' := by
    simpa [Pass.atCursors] using h
  by_cases h0 : bitCur = 0 <;> simp [Pass.atCursors, putBit, cursorStep, h0]

theorem foldl_putBit_atCursors (bits : List Bool) {p p' : Pass} (h : p.atCursors = p'.atCursors) :
    (bits.foldl putBit p).atCursors = (bits.foldl putBit p').atCursors := by
  induction bits generalizing p p' with
  | nil => exact h
  | cons b bits ih => exact ih (putBit_atCursors h b)

/-- The levels of a byte's bits `j-1` down to 0, each as its symbol in time order (R120, R132). -/
def byteLevels (c : Params) (v : Byte) (j : Nat) : List Bool :=
  match j with
  | 0 => []
  | j + 1 => lineLevels c.w (encodeBit c (logicalBit v j)) ++ byteLevels c v j

/-- The levels of the registers in index order (R131). -/
def channelLevels (c : Params) (br : List Byte) : List Bool := br.flatMap fun v => byteLevels c v 8

theorem channelLevels_cons (c : Params) (v : Byte) (rest : List Byte) :
    channelLevels c (v :: rest) = byteLevels c v 8 ++ channelLevels c rest := List.flatMap_cons

theorem lineLevels_length (w y : Nat) : (lineLevels w y).length = w := by simp [lineLevels]

theorem byteLevels_length (c : Params) (v : Byte) (j : Nat) : (byteLevels c v j).length = j * c.w := by
  induction j with
  | zero => rw [byteLevels, List.length_nil, Nat.zero_mul]
  | succ j ih => rw [byteLevels, List.length_append, lineLevels_length, ih, Nat.succ_mul, Nat.add_comm]

theorem channelLevels_length (c : Params) (br : List Byte) : (channelLevels c br).length = 8 * br.length * c.w := by
  simp only [channelLevels, List.length_flatMap, byteLevels_length, List.map_const', List.sum_replicate, smul_eq_mul]
  ring

theorem lineLevels_succ (t y : Nat) : lineLevels (t + 1) y = subBit y t :: lineLevels t y := by
  rw [lineLevels, List.range_succ_eq_map, List.map_cons, List.map_map, lineLevels]
  refine congrArg (_ :: ·) (List.map_congr_left fun u _ => ?_)
  rw [Function.comp_apply, show t + 1 - 1 - u.succ = t - 1 - u by omega]

theorem putSymbol_atCursors (y t : Nat) (p : Pass) :
    (putSymbol y t p).atCursors = ((lineLevels t y).foldl putBit p).atCursors := by
  induction t generalizing p with
  | zero => rfl
  | succ t ih =>
    rw [putSymbol, ih, lineLevels_succ, List.foldl_cons]
    refine foldl_putBit_atCursors _ (putBit_atCursors ?_ _)
    rfl

theorem putByte_atCursors (c : Params) (v : Byte) (j : Nat) (p : Pass) :
    (putByte c v j p).atCursors = ((byteLevels c v j).foldl putBit p).atCursors := by
  induction j generalizing p with
  | zero => rfl
  | succ j ih =>
    rw [putByte, ih, byteLevels, List.foldl_append]
    refine foldl_putBit_atCursors _ ((putSymbol_atCursors _ _ _).trans ?_)
    exact foldl_putBit_atCursors _ rfl

theorem putChannels_atCursors (c : Params) (k : Nat) (br : List Byte) (p : Pass) :
    (putChannels c k br p).atCursors = ((channelLevels c br).foldl putBit p).atCursors := by
  induction br generalizing k p with
  | nil => rfl
  | cons v rest ih =>
    rw [putChannels, ih, channelLevels_cons, List.foldl_append]
    refine foldl_putBit_atCursors _ ((putByte_atCursors _ _ _ _).trans ?_)
    exact foldl_putBit_atCursors _ rfl

/-- RENDER's buffer is that of the walk over the levels of its registers, whatever the buffer was. -/
theorem renderPass_buf_eq_foldl (s : State) :
    (renderPass s).buf =
      ((channelLevels s.cfg.params s.br).foldl putBit { buf := s.buf, rpos := startOfPass s.cfg.params.w }).buf :=
  congrArg Prod.fst (putChannels_atCursors s.cfg.params 0 s.br _)

/-- The levels are FRAME's bits. Both are what the pass makes of an empty buffer, so no index is computed here. -/
theorem channelLevels_getD {s : State} (hl : s.br.length = s.cfg.n) {x : Nat}
    (hx : x < 8 * s.cfg.n * s.cfg.params.w) :
    (channelLevels s.cfg.params s.br).getD x false = frameBit s.cfg s.br x := by
  obtain ⟨-, -, hpass⟩ := renderPass_spec (s := { s with buf := [] }) memWf_nil hl
  have hwalk := foldl_putBit_wrote (channelLevels s.cfg.params s.br)
    (p := { buf := [], rpos := startOfPass s.cfg.params.w }) memWf_nil (cursorAt_startOfPass _)
  have hbit := hwalk.bits x
  rw [channelLevels_length, hl, if_pos ⟨Nat.zero_le x, by omega⟩, Nat.sub_zero] at hbit
  rw [← hbit, ← renderPass_buf_eq_foldl { s with buf := [] }]
  exact (hpass x).trans (if_pos hx)

/-! The outcome of RENDER -/

theorem exec_render_of_lengthOk {s : State} (hf : s.fsm = .rendering) (hl : LengthOk s) :
    exec .render s = .next (renderPass s) :=
  execRender_next.2 ⟨hf, deviceOk_of_lengthOk hl, rfl⟩

/-- Settles O9: the pass completes, and its buffer is FRAME of the registers. -/
theorem renderMakesTheFrame : Obligations.RenderMakesTheFrame := by
  intro s hf hm hl hz
  obtain ⟨-, hmem, -⟩ := renderPass_spec hm hl.2
  exact ⟨_, exec_render_of_lengthOk hf hl, snapshot_renderPass hm hl.2 hz, hmem, rfl⟩

/-- Settles O10: the walk is the one over the levels of the registers. -/
theorem renderWalksEveryPositionOnce : Obligations.RenderWalksEveryPositionOnce := by
  intro s hf hl
  have hlen : (channelLevels s.cfg.params s.br).length = 8 * s.cfg.n * s.cfg.params.w := by
    rw [channelLevels_length, hl.2]
  refine ⟨_, channelLevels s.cfg.params s.br, exec_render_of_lengthOk hf hl, hlen, fun k j u hk hj hu => ?_,
    fun q hq => ?_, renderPass_buf_eq_foldl s⟩
  · have hlt := bitPosition_lt (j := j) hk hu
    have hbit := (channelLevels_getD hl.2 hlt).trans (frameBit_bitPosition s.br hk hj hu)
    rw [← hlen] at hlt
    rw [List.getD_eq_getElem _ _ hlt] at hbit
    exact (List.getElem?_eq_getElem hlt).trans (congrArg some hbit)
  · have hc := cursorAt_foldl_putBit ((channelLevels s.cfg.params s.br).take q)
      (p := { buf := s.buf, rpos := startOfPass s.cfg.params.w }) (cursorAt_startOfPass _)
    rw [List.length_take, Nat.min_eq_left hq, Nat.zero_add] at hc
    exact hc

/-- Settles O11: the last cursors are those of position `8*N*W`, the first one of the reset region. -/
theorem renderStopsAtTheResetRegion : Obligations.RenderStopsAtTheResetRegion := by
  intro s hf hm hl
  obtain ⟨⟨hbyte, hbit⟩, -, -⟩ := renderPass_spec hm hl.2
  rw [Nat.mul_assoc] at hbyte hbit
  refine ⟨(deviceOk_iff.1 (deviceOk_of_lengthOk hl)).2, _, exec_render_of_lengthOk hf hl, by omega,
    Fin.ext (hbit.trans ?_), fun a ha => renderPass_memRead_beyond hm hl.2 ha⟩
  rw [Nat.mul_mod_right]
  rfl

/-- The buffer after a pass is decided by the registers, the configuration and the bytes beyond the display region
(R145). -/
theorem renderPass_buf_congr {s s' : State} (hm : memWf s.buf) (hm' : memWf s'.buf) (hl : s.br.length = s.cfg.n)
    (hbr : s'.br = s.br) (hcfg : s'.cfg = s.cfg)
    (hold : ∀ a, s.cfg.n * s.cfg.params.w ≤ a → memRead s'.buf a = memRead s.buf a) :
    (renderPass s').buf = (renderPass s).buf := by
  obtain ⟨-, hmem, hbits⟩ := renderPass_spec hm hl
  obtain ⟨-, hmem', hbits'⟩ := renderPass_spec (s := s') hm' (by rw [hbr, hcfg, hl])
  refine memory_ext hmem' hmem fun a => BitVec.eq_of_getLsbD_eq fun i hi => ?_
  rw [memRead_getLsbD _ _ hi, memRead_getLsbD _ _ hi, hbits, hbits', hbr, hcfg]
  split
  · rfl
  · next hx =>
    rw [Nat.mul_assoc] at hx
    rw [← memRead_getLsbD _ _ hi, ← memRead_getLsbD _ _ hi, hold a (by omega)]

/-- Settles O12: two passes from buffers that agree beyond the display region; the second pass is such a case, since
the first wrote nothing there. -/
theorem renderForgetsOldContent : Obligations.RenderForgetsOldContent := by
  intro s old hf hm hmOld hl hagree
  obtain ⟨-, hmem, -⟩ := renderPass_spec hm hl.2
  exact ⟨_, _, _, exec_render_of_lengthOk hf hl,
    exec_render_of_lengthOk (s := { s with buf := old }) hf hl,
    renderPass_buf_congr (s' := { s with buf := old }) hm hmOld hl.2 rfl rfl hagree,
    exec_render_of_lengthOk (s := renderPass s) hf hl,
    renderPass_buf_congr (s' := renderPass s) hm hmem hl.2 rfl rfl fun a ha => renderPass_memRead_beyond hm hl.2 ha⟩

/-- Settles O55: the cursors of a walk, the positions, and the bus-bits that the pass leaves. -/
theorem everySubBitHasItsPosition : Obligations.EverySubBitHasItsPosition := by
  intro s hf hm hl
  obtain ⟨-, -, hbits⟩ := renderPass_spec hm hl.2
  refine ⟨fun bits => ?_, fun q => lt_iff_exists_bitPosition,
    fun k j u k' j' u' hj hu hj' hu' h => bitPosition_injective hj hu hj' hu' h,
    _, exec_render_of_lengthOk hf hl, fun k j u hk hj hu => ⟨rfl, ?_⟩⟩
  · have hc := cursorAt_foldl_putBit bits (p := { buf := s.buf, rpos := startOfPass s.cfg.params.w })
      (cursorAt_startOfPass _)
    rwa [Nat.zero_add] at hc
  · calc memBusBit (renderPass s).buf (bitPosition s.cfg.params.w k j u)
        = frameBit s.cfg s.br (bitPosition s.cfg.params.w k j u) := (hbits _).trans (if_pos (bitPosition_lt hk hu))
      _ = subBit (encodeBit s.cfg.params (logicalBit (readBr s k) j)) u := frameBit_bitPosition s.br hk hj hu

end Sys2Proof.Machine
end

section
/-!
PROOF. What one bit of one channel does to the frame (42_frame_renderer.md R146): it chooses between the two symbols in
its own slot, and no other bus-bit depends on it.
-/
namespace Sys2Proof.Machine

/-! Values of equal bits -/

theorem logicalBit_zero (j : Nat) : logicalBit 0x00#8 j = false := BitVec.getLsbD_zero

theorem logicalBit_ones {j : Nat} (hj : j < 8) : logicalBit 0xFF#8 j = true := by
  revert j
  decide

/-! Flipping one bit -/

/-- `br` with bit `j` of channel `k` flipped. -/
def flipBit (br : List Byte) (k j : Nat) : List Byte := br.set k (br.getD k 0#8 ^^^ (1#8 <<< j))

theorem logicalBit_xor_shiftLeft_one (v : Byte) {j i : Nat} (hi : i < 8) :
    logicalBit (v ^^^ (1#8 <<< j)) i = (logicalBit v i ^^ decide (i = j)) := by
  have hone : (1#8 <<< j).getLsbD i = decide (i = j) := by
    rw [← BitVec.twoPow_eq, BitVec.getLsbD_twoPow, ← Bool.decide_and]
    exact decide_eq_decide.2 (by omega)
  rw [logicalBit, BitVec.getLsbD_xor, hone, logicalBit]

/-- The flipped bit is negated, every other one kept. -/
theorem logicalBit_flipBit {br : List Byte} {k j k' i : Nat} (hk : k < br.length) (hi : i < 8) :
    logicalBit ((flipBit br k j).getD k' 0#8) i =
      (logicalBit (br.getD k' 0#8) i ^^ decide (k' = k ∧ i = j)) := by
  by_cases hk' : k' = k
  · subst hk'
    have hset : (flipBit br k' j).getD k' 0#8 = br.getD k' 0#8 ^^^ (1#8 <<< j) := by simp [flipBit, hk]
    rw [hset, logicalBit_xor_shiftLeft_one _ hi]
    simp
  · have hset : (flipBit br k j).getD k' 0#8 = br.getD k' 0#8 := by
      simp [flipBit, List.getD_eq_getElem?_getD, List.getElem?_set_ne (Ne.symm hk')]
    rw [hset]
    simp [hk']

/-- Negating a logical bit changes the sub-bits in which the symbols differ. -/
theorem subBit_encodeBit_not_ne_iff (p : Params) (b : Bool) (u : Nat) :
    subBit (encodeBit p (!b)) u ≠ subBit (encodeBit p b) u ↔ p.sym0.testBit u ≠ p.sym1.testBit u := by
  cases b
  · exact ne_comm
  · exact Iff.rfl

section Flip
variable {c : Cfg} {br : List Byte} {k j : Nat} (hl : br.length = c.n) (hk : k < c.n)
include hl hk

/-- The frame changes at the position of sub-bit `u` of another bit not at all, at that of the flipped bit where the
symbols differ. -/
theorem frameBit_flipBit_ne_iff {k' j' u : Nat} (hk' : k' < c.n) (hj' : j' < 8) (hu : u < c.params.w) :
    frameBit c (flipBit br k j) (bitPosition c.params.w k' j' u) ≠ frameBit c br (bitPosition c.params.w k' j' u) ↔
      (k' = k ∧ j' = j) ∧ c.params.sym0.testBit u ≠ c.params.sym1.testBit u := by
  rw [frameBit_bitPosition _ hk' hj' hu, frameBit_bitPosition _ hk' hj' hu,
    logicalBit_flipBit (by omega) hj']
  by_cases hsame : k' = k ∧ j' = j
  · rw [decide_eq_true hsame, Bool.xor_true, subBit_encodeBit_not_ne_iff]
    exact (and_iff_right hsame).symm
  · rw [decide_eq_false hsame, Bool.xor_false]
    exact ⟨fun h => absurd rfl h, fun h => absurd h.1 hsame⟩

/-- The frame changes exactly at the positions of the flipped bit where the symbols differ. -/
theorem busBit_flipBit_ne_iff (hj : j < 8) {x : Nat} (hx : x < 8 * c.s) :
    busBit (frame c (flipBit br k j)) x ≠ busBit (frame c br) x ↔
      ∃ t, t < c.params.w ∧ x = bitPosition c.params.w k j t ∧
        c.params.sym0.testBit t ≠ c.params.sym1.testBit t := by
  rw [busBit_frame _ _ hx, busBit_frame _ _ hx]
  constructor
  · intro hne
    have hdisplay : x < 8 * c.n * c.params.w := by
      by_contra hout
      rw [frameBit_beyond _ hout, frameBit_beyond _ hout] at hne
      exact hne rfl
    obtain ⟨k', j', u, hk', hj', hu, rfl⟩ := exists_bitPosition hdisplay
    obtain ⟨⟨rfl, rfl⟩, hsym⟩ := (frameBit_flipBit_ne_iff hl hk hk' hj' hu).1 hne
    exact ⟨u, hu, rfl, hsym⟩
  · rintro ⟨t, ht, rfl, hsym⟩
    exact (frameBit_flipBit_ne_iff hl hk hk hj ht).2 ⟨⟨rfl, rfl⟩, hsym⟩

end Flip

/-- The reference symbols 100 and 110 differ in sub-bit 1 only (R116, R117). -/
theorem reference_symbols_differ_iff {t : Nat} (ht : t < Config.reference.w) :
    Config.reference.sym0.testBit t ≠ Config.reference.sym1.testBit t ↔ t = 1 := by
  revert t
  decide

/-- Sub-bit 1 of the three of a slot stands in its middle. -/
theorem bitPosition_reference_middle (k j : Nat) :
    bitPosition Config.reference.w k j 1 = 3 * (8 * k + (7 - j)) + 1 := rfl

/-- Settles O16: the sub-bits of the two constant values, and the positions at which a flipped bit shows. -/
theorem frameChangesOnlyWhereTheSymbolsDiffer : Obligations.FrameChangesOnlyWhereTheSymbolsDiffer := by
  intro c br k j hs hl hk hj
  refine ⟨fun hv t ht => ?_, fun hv t ht => ?_, fun x hx => busBit_flipBit_ne_iff hl hk hj hx, fun hp x hx => ?_⟩
  · refine (busBit_frame_bitPosition br hs hk hj ht).trans ?_
    rw [hv, logicalBit_zero]
    rfl
  · refine (busBit_frame_bitPosition br hs hk hj ht).trans ?_
    rw [hv, logicalBit_ones hj]
    rfl
  · refine (busBit_flipBit_ne_iff hl hk hj hx).trans ?_
    rw [hp, ← bitPosition_reference_middle]
    constructor
    · rintro ⟨t, ht, hpos, hsym⟩
      rw [hpos, (reference_symbols_differ_iff ht).1 hsym]
    · intro hpos
      exact ⟨1, by decide, hpos, (reference_symbols_differ_iff (by decide)).2 rfl⟩

end Sys2Proof.Machine
end

section
/-!
PROOF. The Channel Registry (43_channel_registry.md R160 to R168): what GET answers, what a SET leaves alone, and where
the colour roles come from and do not go.
-/
namespace Sys2Proof.Machine

/-! GET (R161) -/

/-- The response `OK` is its data, zero-extended (R91). -/
theorem rspWord_statusOk (data : Byte) : rspWord statusOk data = data.setWidth 16 := by
  rw [BitVec.setWidth_eq_append (by decide), rspWord, statusOk, BitVec.zero_append_zero]
  rfl

/-- Settles O18: the index is valid and the Device sound, so the answer is `OK` with the register. -/
theorem getAnswersTheRegister : Obligations.GetAnswersTheRegister := by
  intro s c hidle hlen hc
  have hlive : s.fsm ≠ .unconstructed := by simp [hidle]
  refine (execGet_next.2 ⟨hlive, .inl ⟨hidle, hc, deviceOk_of_lengthOk hlen, rfl⟩⟩).trans ?_
  rw [rspWord_statusOk]
  rfl

/-! The frame of SET (R162) -/

/-- A SET on a Device that is ready is its whole tenure, at the answer drawn (R175). -/
theorem exec_set_of_ready {s : State} {c : Nat} (hr : Ready s) (hc : c < s.cfg.n) (v : Byte) :
    exec (.set c v) s = .next (runTenure s c v (nextTxResult s)) :=
  have hlive : s.fsm ≠ .unconstructed := by simp [hr.live]
  execSet_next.2 ⟨hlive, .inl ⟨hc, hr.free, deviceOk_of_lengthOk hr.length, rfl⟩⟩

section Registers
variable (s : State) (c : Nat) (v : Byte) (r : TxResult)

theorem readBr_runTenure_same (hc : c < s.br.length) : readBr (runTenure s c v r) c = v := by
  simp [readBr, hc]

theorem readBr_runTenure_other {i : Nat} (hi : i ≠ c) : readBr (runTenure s c v r) i = readBr s i := by
  simp [readBr, List.getD_eq_getElem?_getD, List.getElem?_set_ne hi.symm]

end Registers

section Buffer
variable {s : State} (hl : s.br.length = s.cfg.n) (c : Nat) (v : Byte) (r : TxResult)
include hl

theorem beginTenure_registers : (beginTenure s c v).br.length = (beginTenure s c v).cfg.n := by
  rw [beginTenure_br, List.length_set, hl, beginTenure_cfg]

variable (hm : memWf s.buf)
include hm

theorem runTenure_keeps_memWf : memWf (runTenure s c v r).buf := by
  obtain ⟨-, hmem, -⟩ := renderPass_spec (s := beginTenure s c v) hm (beginTenure_registers hl c v)
  rwa [runTenure_buf]

/-- Its one pass is all of a tenure that stores to the buffer (R140). -/
theorem runTenure_memRead_beyond {a : Nat} (ha : s.cfg.n * s.cfg.params.w ≤ a) :
    memRead (runTenure s c v r).buf a = memRead s.buf a := by
  rw [runTenure_buf]
  exact renderPass_memRead_beyond (s := beginTenure s c v) hm (beginTenure_registers hl c v) ha

end Buffer

/-- Settles O22: the tenure, register by register, byte by byte and field by field. -/
theorem setLeavesTheRestAlone : Obligations.SetLeavesTheRestAlone := by
  intro s c v hr hc
  have hl : s.br.length = s.cfg.n := hr.length.2
  refine ⟨_, exec_set_of_ready hr hc v, fun i hi => readBr_runTenure_other s c v _ hi,
    readBr_runTenure_same s c v _ (hl ▸ hc), ?_, fun a ha => runTenure_memRead_beyond hl c v _ hr.memory ha,
    runTenure_cfg .., runTenure_role .., runTenure_nameOf .., runTenure_pending .., runTenure_port ..,
    runTenure_initStatus .., runTenure_tenure .., runTenure_keeps_memWf hl c v _ hr.memory⟩
  rw [runTenure_br, List.length_set]

/-! Roles (R164 to R168) -/

/-- CONSTRUCT of a configuration that passes its checks completes (R230). -/
theorem exec_construct_of_buildable {s : State} {p : Params} {led : Option Int} {order : Option (List Char)}
    (hs : s.fsm = .unconstructed) (h : Buildable p led order) :
    exec (.construct p led order) s = .next (constructed s p (ledCountOf led).toNat (colorOrderOf order)) := by
  have hleds : ¬ ledCountOf led ≤ 0 := not_le.2 h.leds
  have hn : (cfgOf p (ledCountOf led).toNat (colorOrderOf order)).n = 3 * (ledCountOf led).toNat := Nat.mul_comm _ _
  have hsize : (cfgOf p (ledCountOf led).toNat (colorOrderOf order)).s =
      bufSize p (3 * (ledCountOf led).toNat) := congrArg (bufSize p) hn
  simp [exec, execConstruct, hs, hleds, h.letters, h.params, hn, hsize, h.channelsFit, h.bufferFits]

/-- The letters of the alphabet, each with its role (R165, D15). -/
theorem roleOfLetter_isSome {l : Char} (h : (roleOfLetter l).isSome = true) :
    (l = 'R' ∧ roleOfLetter l = some .red) ∨ (l = 'G' ∧ roleOfLetter l = some .green) ∨
      (l = 'B' ∧ roleOfLetter l = some .blue) := by
  by_cases hr : l = 'R'
  · exact .inl ⟨hr, hr ▸ rfl⟩
  by_cases hg : l = 'G'
  · exact .inr (.inl ⟨hg, hg ▸ rfl⟩)
  by_cases hb : l = 'B'
  · exact .inr (.inr ⟨hb, hb ▸ rfl⟩)
  simp [roleOfLetter, hr, hg, hb] at h

/-- The role of channel `i` is that of letter `i mod L` (R165). -/
theorem roleOfLetter_eq_roleAt {order : List Char} {i : Nat} {l : Char} (hl : order[i % order.length]? = some l)
    (hk : (roleOfLetter l).isSome = true) : roleOfLetter l = some (roleAt order i) := by
  obtain ⟨role, hrole⟩ := Option.isSome_iff_exists.1 hk
  simp [roleAt, List.getD_eq_getElem?_getD, hl, hrole]

/-- In a colour order with known letters there is a letter for every channel, and it names the role (R165, R167). -/
theorem roleAt_letter {order : List Char} (hne : order ≠ []) (hk : lettersKnown order = true) (i : Nat) :
    ∃ l, order[i % order.length]? = some l ∧
      ((l = 'R' ∧ roleAt order i = .red) ∨ (l = 'G' ∧ roleAt order i = .green) ∨
        (l = 'B' ∧ roleAt order i = .blue)) := by
  have hlt : i % order.length < order.length := Nat.mod_lt _ (List.length_pos_of_ne_nil hne)
  have hl : order[i % order.length]? = some order[i % order.length] := List.getElem?_eq_getElem hlt
  have hsome : (roleOfLetter order[i % order.length]).isSome = true :=
    List.all_eq_true.1 hk _ (List.getElem_mem hlt)
  have hrole := roleOfLetter_isSome hsome
  rw [roleOfLetter_eq_roleAt hl hsome] at hrole
  exact ⟨_, hl, by simpa using hrole⟩

section Constructed
variable (s : State) (p : Params) (leds : Nat) (order : List Char)

theorem constructed_role_getElem? {i : Nat} (hi : i < (constructed s p leds order).cfg.n) :
    (constructed s p leds order).role[i]? = some (roleAt order i) := by
  have hrange : (List.range (leds * Config.colorsPerLed))[i]? = some i := List.getElem?_range hi
  rw [constructed_role, List.getElem?_map, hrange, Option.map_some]

/-- "GRB" gives the channels of the first LED the roles Green, Red, Blue (R165, R166). -/
theorem constructed_role_take_default (hleds : 0 < leds) :
    (constructed s p leds Config.defaultOrder).role.take 3 = [.green, .red, .blue] := by
  have hmin : min 3 (leds * Config.colorsPerLed) = 3 := Nat.min_eq_left (Nat.le_mul_of_pos_left 3 hleds)
  rw [constructed_role, ← List.map_take, List.take_range, hmin]
  decide

end Constructed

/-- Only the lifecycle writes CFG, ROLE, NAMEOF and the init status (R25, R29, R165, R200). -/
theorem exec_keeps_configuration {i : Instr} {s t : State} (hc : ∀ p led order, i ≠ .construct p led order)
    (ht : i ≠ .teardown) (h : exec i s = .next t) :
    t.cfg = s.cfg ∧ t.role = s.role ∧ t.nameOf = s.nameOf ∧ t.initStatus = s.initStatus := by
  cases i with
  | sym0 =>
    obtain ⟨-, rfl⟩ := execSym0_next.1 h
    exact ⟨rfl, rfl, rfl, rfl⟩
  | sym1 =>
    obtain ⟨-, rfl⟩ := execSym1_next.1 h
    exact ⟨rfl, rfl, rfl, rfl⟩
  | set c v =>
    obtain ⟨-, ⟨-, -, -, rfl⟩ | ⟨-, -, rfl⟩ | ⟨-, rfl⟩⟩ := execSet_next.1 h
    · exact ⟨runTenure_cfg .., runTenure_role .., runTenure_nameOf .., runTenure_initStatus ..⟩
    · exact ⟨rfl, rfl, rfl, rfl⟩
    · exact ⟨rfl, rfl, rfl, rfl⟩
  | get c =>
    obtain ⟨-, ⟨-, -, -, rfl⟩ | ⟨-, -, rfl⟩ | ⟨-, rfl⟩⟩ := execGet_next.1 h <;>
      exact ⟨rfl, rfl, rfl, rfl⟩
  | bufsize n =>
    obtain ⟨-, -, rfl⟩ := execBufsize_next.1 h
    exact ⟨rfl, rfl, rfl, rfl⟩
  | encode b =>
    obtain ⟨-, rfl⟩ := execEncode_next.1 h
    exact ⟨rfl, rfl, rfl, rfl⟩
  | render =>
    obtain ⟨-, -, rfl⟩ := execRender_next.1 h
    exact ⟨rfl, rfl, rfl, rfl⟩
  | decode buf n =>
    obtain ⟨-, -, rfl⟩ := execDecode_next.1 h
    exact ⟨rfl, rfl, rfl, rfl⟩
  | transmit =>
    obtain ⟨-, rfl⟩ := execTransmit_next.1 h
    exact ⟨rfl, rfl, rfl, rfl⟩
  | construct p led order => exact absurd rfl (hc p led order)
  | teardown => exact absurd rfl ht

/-- CONSTRUCT on a live Device does not go on (R235). -/
theorem ne_construct_of_live {i : Instr} {s t : State} (hlive : s.fsm ≠ .unconstructed) (h : exec i s = .next t)
    (p : Params) (led : Option Int) (order : Option (List Char)) : i ≠ .construct p led order := by
  rintro rfl
  obtain ⟨hs, -⟩ := execConstruct_next h
  exact hlive hs

/-- Settles O35: the roles that CONSTRUCT assigns are those of the letters, and no other operation assigns any. -/
theorem rolesFollowTheColourOrder : Obligations.RolesFollowTheColourOrder := by
  refine ⟨fun s p led order hs hb => ⟨_, exec_construct_of_buildable hs hb, by simp [cfgOf], fun i hi => ?_, ?_⟩,
    fun i s t hlive ht h => ?_⟩
  · rw [constructed_role_getElem? _ _ _ _ hi]
    simpa only [Option.some_inj] using roleAt_letter (colorOrderOf_ne_nil order) hb.letters i
  · rintro rfl
    exact ⟨constructed_role_take_default _ _ _ (Int.pos_iff_toNat_pos.1 hb.leds),
      fun h3 => constructed_role_getElem? _ _ _ _ h3⟩
  · obtain ⟨-, hrole, -, -⟩ := exec_keeps_configuration (ne_construct_of_live hlive h) ht h
    exact hrole

/-! The roles and the frame (R168) -/

/-- `s` with other roles, names and colour order. -/
def relabelled (s : State) (role : List Role) (names : List String) (order : List Char) : State :=
  { s with role := role, nameOf := names, cfg := { s.cfg with colorOrder := order } }

section Relabelled
variable (s : State) (role : List Role) (names : List String) (order : List Char)

theorem relabelled_lengthOk (h : LengthOk s) : LengthOk (relabelled s role names order) := h

/-- The pass reads none of them. -/
theorem renderPass_relabelled :
    renderPass (relabelled s role names order) = relabelled (renderPass s) role names order := rfl

end Relabelled

/-- Settles O53: the pass over the relabelled Device is the pass over the Device, relabelled. -/
theorem rolesDoNotReachTheFrame : Obligations.RolesDoNotReachTheFrame := by
  intro s role names order hf hl
  have hpass :=
    calc exec .render (relabelled s role names order)
        = .next (renderPass (relabelled s role names order)) :=
          exec_render_of_lengthOk hf (relabelled_lengthOk s role names order hl)
      _ = .next (relabelled (renderPass s) role names order) := by rw [renderPass_relabelled]
  exact ⟨_, _, exec_render_of_lengthOk hf hl, hpass, rfl, rfl⟩

end Sys2Proof.Machine
end

section
/-!
PROOF. A SET as one tenure (44_update_coordinator.md R175 to R182): what waits for it, what TRANSMIT hands over, and
the state it leaves, which is again one in which a SET may start.
-/
namespace Sys2Proof.Machine

/-! While a tenure runs -/

/-- Settles O20: FSM is not Idle, so the GET waits, and the lock is held, so the SET does. -/
theorem commandsWaitForTheTenure : Obligations.CommandsWaitForTheTenure := by
  intro s c v htenure hheld
  have hlive : s.fsm ≠ .unconstructed := by rcases htenure with h | h <;> simp [h]
  have hidle : s.fsm ≠ .idle := by rcases htenure with h | h <;> simp [h]
  have hlock : s.lock ≠ .free := by simp [hheld]
  exact ⟨execGet_next.2 ⟨hlive, .inr (.inr ⟨hidle, rfl⟩)⟩,
    fun hc => execSet_next.2 ⟨hlive, .inr (.inl ⟨hc, hlock, rfl⟩)⟩⟩

/-- Settles O27: the fields that `transmitFrame` writes. -/
theorem transmitRecordsTheSnapshot : Obligations.TransmitRecordsTheSnapshot :=
  fun _ hf => execTransmit_next.2 ⟨hf, rfl⟩

/-! The responses of a SET (R91, R175 step 8) -/

theorem rspWord_statusBusError (e : Byte) : rspWord statusBusError e = 0x0100#16 ||| e.setWidth 16 := by
  have hstatus : (0x0100#16) = 0#4 ++ statusBusError ++ 0#8 := by decide
  rw [← rspWord_statusOk, hstatus, rspWord, rspWord, BitVec.or_append, BitVec.or_append, statusOk, BitVec.zero_or,
    BitVec.or_zero, BitVec.zero_or]

/-! The state a tenure leaves -/

section Ready
variable {s : State} (hr : Ready s) (c : Nat) (v : Byte) (r : TxResult)
include hr

/-- The pass of the tenure makes the buffer FRAME of the registers written (R175 step 4, R137). -/
theorem snapshot_runTenure : snapshot (runTenure s c v r) = frame s.cfg (s.br.set c v) :=
  calc snapshot (runTenure s c v r) = snapshot (renderPass (beginTenure s c v)) :=
        snapshot_congr (by simp) (by simp)
    _ = frame s.cfg (s.br.set c v) :=
        snapshot_renderPass (s := beginTenure s c v) hr.memory (beginTenure_registers hr.length.2 c v) hr.resetRegion

theorem runTenure_wire_frame :
    (runTenure s c v r).wire = s.wire ++ [⟨frame s.cfg (s.br.set c v), r⟩] := by
  rw [runTenure_wire, snapshot_runTenure hr]

/-- After a tenure the next SET may start (R178, R250). -/
theorem runTenure_ready : Ready (runTenure s c v r) where
  live := runTenure_fsm ..
  free := runTenure_lock ..
  memory := runTenure_keeps_memWf hr.length.2 c v r hr.memory
  length := by simpa [LengthOk] using hr.length
  resetRegion a ha := by
    rw [runTenure_cfg] at ha
    rw [runTenure_memRead_beyond hr.length.2 c v r hr.memory ha, hr.resetRegion a ha]

end Ready

/-- The snapshot decides the whole buffer of a ready Device: beyond its `S` bytes everything reads 0. -/
theorem buf_eq_of_snapshot {s t : State} (hs : Ready s) (ht : Ready t) (hcfg : s.cfg = t.cfg)
    (h : snapshot s = snapshot t) : s.buf = t.buf := by
  refine memory_ext hs.memory ht.memory fun a => ?_
  have hroom : s.cfg.n * s.cfg.params.w ≤ s.cfg.s := (deviceOk_iff.1 (deviceOk_of_lengthOk hs.length)).2
  by_cases ha : a < s.cfg.s
  · rw [snapshot, snapshot, ← hcfg] at h
    exact List.map_inj_left.1 h a (List.mem_range.2 ha)
  · rw [hs.resetRegion a (by omega), ht.resetRegion a (by rw [← hcfg]; omega)]

/-- Settles O21: the tenure at the answer drawn, field by field; the response by the two answers. -/
theorem setRunsOneWholeTenure : Obligations.SetRunsOneWholeTenure := by
  intro s c v hr hc
  refine ⟨_, nextTxResult s, exec_set_of_ready hr hc v, rfl, runTenure_br .., ?_, ?_, runTenure_lock ..,
    runTenure_fsm .., ?_⟩
  · rw [snapshot_runTenure hr, runTenure_br]
  · rw [runTenure_wire_frame hr, runTenure_br]
  · rw [runTenure_rsp]
    cases nextTxResult s with
    | ok => rfl
    | err e => rw [setRsp, rspWord_statusBusError]

theorem set_readBr (s : State) (c : Nat) (hc : c < s.br.length) : s.br.set c (readBr s c) = s.br := by
  rw [readBr, List.getD_eq_getElem _ _ hc, List.set_getElem_self]

/-- Settles O23: writing the value held leaves the registers as they were, and the tenure sends their frame. -/
theorem sameValueIsSentAgain : Obligations.SameValueIsSentAgain := by
  intro s c hr hc
  have hbr : s.br.set c (readBr s c) = s.br := set_readBr s c (by rwa [hr.length.2])
  refine ⟨_, nextTxResult s, exec_set_of_ready hr hc _, ?_, ?_, ?_⟩
  · rw [runTenure_br, hbr]
  · rw [runTenure_wire_frame hr, hbr]
  · rw [snapshot_runTenure hr, hbr]

/-- The answer of the transmitter does not reach the buffer (R179). -/
theorem runTenure_buf_of_answer (s : State) (c : Nat) (v : Byte) (r r' : TxResult) :
    (runTenure s c v r).buf = (runTenure s c v r').buf := by
  rw [runTenure_buf, runTenure_buf]

/-- The same SET once more leaves the identical buffer (R179, R180). -/
theorem runTenure_again_buf {s : State} (hr : Ready s) (c : Nat) (v : Byte) (r r' : TxResult) :
    (runTenure (runTenure s c v r) c v r').buf = (runTenure s c v r).buf := by
  have hr' := runTenure_ready hr c v r
  refine buf_eq_of_snapshot (runTenure_ready hr' c v r') hr' (runTenure_cfg ..) ?_
  rw [snapshot_runTenure hr', snapshot_runTenure hr, runTenure_cfg, runTenure_br, List.set_set]

/-- Settles O26: every field of the tenure at the answer `Err(e)`. -/
theorem failedTransmitKeepsTheUpdate : Obligations.FailedTransmitKeepsTheUpdate := by
  intro s c v e r hr hc
  refine ⟨exec_set_of_ready hr hc v, runTenure_br .., snapshot_runTenure hr c v _, runTenure_lock ..,
    runTenure_fsm .., runTenure_wire_frame hr c v _, ?_, runTenure_buf_of_answer s c v _ _,
    runTenure_again_buf hr c v _ r⟩
  rw [runTenure_rsp, setRsp, rspWord_statusBusError]

/-- Settles O51: the frame is FRAME of some N values by the invariant, and DECODE undoes FRAME. -/
theorem everyFrameOnWireDecodes : Obligations.EveryFrameOnWireDecodes := by
  intro s hm hfr hlive e he
  have l := hm.live hlive
  obtain ⟨br, hlen, hframe⟩ := hfr.wire e he
  have hroom : s.cfg.n * s.cfg.params.w ≤ s.cfg.s :=
    (deviceOk_iff.1 (deviceOk_of_lengthOk ⟨l.size, l.registers⟩)).2
  refine ⟨br, hlen, ?_, hframe⟩
  rw [hframe, decodeFrame_frame l.params hroom br hlen]

end Sys2Proof.Machine
end

section
/-!
PROOF. SETs one after another (20_memory.md R59, R60; 44_update_coordinator.md R181, R186): each starts from the state
the one before it left, which is ready again.
-/
namespace Sys2Proof.Machine

/-! The registers after a list of writes (R162) -/

theorem writesOf_append_singleton (br : List Byte) (cvs : List (Nat × Byte)) (cv : Nat × Byte) :
    writesOf br (cvs ++ [cv]) = (writesOf br cvs).set cv.1 cv.2 := by
  simp [writesOf]

theorem writesOf_length (br : List Byte) (cvs : List (Nat × Byte)) : (writesOf br cvs).length = br.length := by
  induction cvs using List.reverseRecOn with
  | nil => rfl
  | append_singleton cvs cv ih => rw [writesOf_append_singleton, List.length_set, ih]

/-- The last write to be made is the one that is read. -/
theorem writesOf_append_singleton_getD (br : List Byte) (cvs : List (Nat × Byte)) {cv : Nat × Byte}
    (hc : cv.1 < br.length) : (writesOf br (cvs ++ [cv])).getD cv.1 0#8 = cv.2 := by
  have hlen : cv.1 < (writesOf br cvs).length := by rwa [writesOf_length]
  simp [writesOf_append_singleton, hlen]

section Distinct
variable (br : List Byte) {cvs : List (Nat × Byte)} (hnodup : (cvs.map Prod.fst).Nodup)
include hnodup

/-- Writes to distinct registers commute. -/
theorem writesOf_perm {cvs' : List (Nat × Byte)} (hperm : cvs.Perm cvs') : writesOf br cvs = writesOf br cvs' := by
  refine hperm.foldl_eq' (fun x hx y hy b => ?_) br
  by_cases hxy : x.1 = y.1
  · rw [List.inj_on_of_nodup_map hnodup hx hy hxy]
  · exact List.set_comm _ _ hxy

/-- Every one of them is read afterwards: it could as well have been the last. -/
theorem writesOf_getD_of_mem {cv : Nat × Byte} (hcv : cv ∈ cvs) (hc : cv.1 < br.length) :
    (writesOf br cvs).getD cv.1 0#8 = cv.2 := by
  have hlast : cvs.Perm (cvs.erase cv ++ [cv]) :=
    (List.perm_cons_erase hcv).trans (List.perm_append_singleton cv _).symm
  rw [writesOf_perm br hnodup hlast, writesOf_append_singleton_getD br _ hc]

end Distinct

/-! The state after a list of SETs -/

/-- The state after the SET of `cv`, at the answer drawn. -/
def afterSet (s : State) (cv : Nat × Byte) : State := runTenure s cv.1 cv.2 (nextTxResult s)

/-- The state after the SETs of `cvs`, first to last. -/
def afterSets (s : State) (cvs : List (Nat × Byte)) : State := cvs.foldl afterSet s

theorem afterSets_append_singleton (s : State) (cvs : List (Nat × Byte)) (cv : Nat × Byte) :
    afterSets s (cvs ++ [cv]) = afterSet (afterSets s cvs) cv := List.foldl_concat ..

@[simp] theorem afterSets_cfg (s : State) (cvs : List (Nat × Byte)) : (afterSets s cvs).cfg = s.cfg := by
  induction cvs using List.reverseRecOn with
  | nil => rfl
  | append_singleton cvs cv ih => rw [afterSets_append_singleton, afterSet, runTenure_cfg, ih]

@[simp] theorem afterSets_br (s : State) (cvs : List (Nat × Byte)) : (afterSets s cvs).br = writesOf s.br cvs := by
  induction cvs using List.reverseRecOn with
  | nil => rfl
  | append_singleton cvs cv ih =>
    rw [afterSets_append_singleton, afterSet, runTenure_br, ih, writesOf_append_singleton]

theorem afterSets_wire_length (s : State) (cvs : List (Nat × Byte)) :
    (afterSets s cvs).wire.length = s.wire.length + cvs.length := by
  induction cvs using List.reverseRecOn with
  | nil => rfl
  | append_singleton cvs cv ih =>
    rw [afterSets_append_singleton, afterSet, runTenure_wire, List.length_append, ih, List.length_append,
      List.length_singleton, List.length_singleton, Nat.add_assoc]

/-- WIRE is only appended to (R31). -/
theorem afterSets_wire_extends (s : State) (cvs : List (Nat × Byte)) : s.wire <+: (afterSets s cvs).wire := by
  induction cvs using List.reverseRecOn with
  | nil => exact List.prefix_rfl
  | append_singleton cvs cv ih =>
    rw [afterSets_append_singleton, afterSet, runTenure_wire]
    exact ih.trans (List.prefix_append _ _)

section Ready
variable {s : State} (hr : Ready s)
include hr

theorem afterSets_ready (cvs : List (Nat × Byte)) : Ready (afterSets s cvs) := by
  induction cvs using List.reverseRecOn with
  | nil => exact hr
  | append_singleton cvs cv ih =>
    rw [afterSets_append_singleton]
    exact runTenure_ready ih _ _ _

/-- Once a SET has completed, the buffer is FRAME of the registers (R59 c). -/
theorem snapshot_afterSets {cvs : List (Nat × Byte)} (hne : cvs ≠ []) :
    snapshot (afterSets s cvs) = frame s.cfg (writesOf s.br cvs) := by
  induction cvs using List.reverseRecOn with
  | nil => exact absurd rfl hne
  | append_singleton cvs cv _ =>
    rw [afterSets_append_singleton, afterSet, snapshot_runTenure (afterSets_ready hr cvs), afterSets_cfg, afterSets_br,
      writesOf_append_singleton]

/-- The frame number `i` of a list of SETs is that of its first `i + 1` writes: the earlier ones stay on WIRE as they
were, and the last SET appends its own (R181). -/
theorem afterSets_wire_frame (cvs : List (Nat × Byte)) {i : Nat} (hi : i < cvs.length) :
    ((afterSets s cvs).wire[s.wire.length + i]?).map (·.frame) =
      some (frame s.cfg (writesOf s.br (cvs.take (i + 1)))) := by
  induction cvs using List.reverseRecOn with
  | nil => simp at hi
  | append_singleton cvs cv ih =>
    have hlen := afterSets_wire_length s cvs
    rw [afterSets_append_singleton, afterSet, runTenure_wire_frame (afterSets_ready hr cvs), afterSets_cfg,
      afterSets_br, ← writesOf_append_singleton]
    rcases Nat.lt_or_ge i cvs.length with hlt | hge
    · rw [List.getElem?_append_left (by omega), List.take_append_of_le_length hlt, ih hlt]
    · obtain rfl : i = cvs.length := by
        rw [List.length_append, List.length_singleton] at hi
        omega
      rw [← hlen, List.getElem?_concat_length, List.take_of_length_le (by simp)]
      rfl

/-- SETs of valid indices on a ready Device all complete. -/
theorem execAll_setsOf {cvs : List (Nat × Byte)} (hv : ∀ cv ∈ cvs, cv.1 < s.cfg.n) :
    execAll (setsOf cvs) s = .next (afterSets s cvs) := by
  induction cvs generalizing s with
  | nil => rfl
  | cons cv cvs ih =>
    obtain ⟨hcv, hcvs⟩ := List.forall_mem_cons.1 hv
    have hfirst : exec (.set cv.1 cv.2) s = .next (afterSet s cv) := exec_set_of_ready hr hcv cv.2
    have hrest := ih (s := afterSet s cv) (runTenure_ready hr _ _ _) (by simpa [afterSet] using hcvs)
    calc execAll (setsOf (cv :: cvs)) s = execAll (setsOf cvs) (afterSet s cv) := by
          simp only [setsOf, List.map_cons, execAll, hfirst]
      _ = .next (afterSets s (cv :: cvs)) := hrest

end Ready

/-- Settles O24: the facts about the state after the SETs. -/
theorem setsInSequenceGiveOneFrameEach : Obligations.SetsInSequenceGiveOneFrameEach := by
  intro s cvs hr hv
  refine ⟨_, execAll_setsOf hr hv, afterSets_ready hr cvs, afterSets_cfg .., afterSets_br ..,
    afterSets_wire_length .., afterSets_wire_extends .., fun i hi => afterSets_wire_frame hr cvs hi, fun hne => ?_⟩
  rw [snapshot_afterSets hr hne, afterSets_br]

/-- The buffer after SETs on distinct channels does not depend on their order (R186). -/
theorem afterSets_buf_perm {s : State} (hr : Ready s) {cvs cvs' : List (Nat × Byte)} (hperm : cvs.Perm cvs')
    (hnodup : (cvs.map Prod.fst).Nodup) : (afterSets s cvs).buf = (afterSets s cvs').buf := by
  by_cases hne : cvs = []
  · subst hne
    rw [hperm.nil_eq]
  · have hne' : cvs' ≠ [] := fun h => hne (List.perm_nil.1 (h ▸ hperm))
    refine buf_eq_of_snapshot (afterSets_ready hr cvs) (afterSets_ready hr cvs') (by simp) ?_
    rw [snapshot_afterSets hr hne, snapshot_afterSets hr hne', writesOf_perm s.br hnodup hperm]

/-- Settles O25: the registers and the buffer of the two orders, and the last write to one register. -/
theorem distinctSetsLeaveTheSameInAnyOrder : Obligations.DistinctSetsLeaveTheSameInAnyOrder := by
  intro s cvs cvs' hr hv hperm hnodup
  have hlen : s.br.length = s.cfg.n := hr.length.2
  have hv' : ∀ cv ∈ cvs', cv.1 < s.cfg.n := fun cv hcv => hv cv (hperm.mem_iff.2 hcv)
  refine ⟨⟨_, _, execAll_setsOf hr hv, execAll_setsOf hr hv', ?_, afterSets_buf_perm hr hperm hnodup,
    fun cv hcv => ?_, fun hne => ?_⟩, fun c v v' hc => ⟨_, execAll_setsOf hr (by simp [hc]), ?_⟩⟩
  · rw [afterSets_br, afterSets_br, writesOf_perm s.br hnodup hperm]
  · rw [readBr, afterSets_br, writesOf_getD_of_mem s.br hnodup hcv (by rw [hlen]; exact hv cv hcv)]
  · rw [snapshot_afterSets hr hne, afterSets_br]
  · rw [readBr, afterSets_br]
    exact writesOf_append_singleton_getD s.br [(c, v)] (cv := (c, v')) (by rwa [hlen])

end Sys2Proof.Machine
end

section
/-!
PROOF. The coordinator's transitions (44_update_coordinator.md R176, R177, R183, R185): which waiting request is
started, and what becomes of it.
-/
namespace Sys2Proof.Machine

/-! A request that is started in Idle (R176, R177; 60_exceptions.md R202, R203) -/

section Serve
variable {s : State} {q : Request} {c : Nat} {v : Byte}

theorem serve_of_get (hq : decodeRequest q = .ok (.get c)) : serve q s = exec (.get c) s := by
  simp only [serve, hq]

theorem serve_of_reserved {e : DecodeError} (hq : decodeRequest q = .error e) : serve q s = badCommand q s := by
  simp only [serve, hq]

theorem serve_of_set_mayBegin (hq : decodeRequest q = .ok (.set c v)) (hb : mayBegin s c = true) :
    serve q s = .next (beginTenure s c v) := by
  simp only [serve, hq, hb, if_true]

theorem serve_of_set_badIndex (hlive : s.fsm ≠ .unconstructed) (hq : decodeRequest q = .ok (.set c v))
    (hc : ¬ c < s.cfg.n) : serve q s = .next (answer s (.set c v) (rspWord statusBadIndex 0#8)) := by
  have hb : mayBegin s c = false := by simp [mayBegin, validIndex, hc]
  calc serve q s = exec (.set c v) s := by simp [serve, hq, hb]
    _ = _ := execSet_next.2 ⟨hlive, .inr (.inr ⟨hc, rfl⟩)⟩

theorem mayBegin_of_valid (hfree : s.lock = .free) (hd : deviceOk s = true) (hc : c < s.cfg.n) :
    mayBegin s c = true := by
  simp [mayBegin, validIndex_iff, hfree, hd, hc]

/-- The response to a GET in Idle (R161, R202). -/
def getRsp (s : State) (c : Nat) : Rsp :=
  if c < s.cfg.n then rspWord statusOk (readBr s c) else rspWord statusBadIndex 0#8

theorem exec_get_of_idle (hidle : s.fsm = .idle) (hd : deviceOk s = true) (c : Nat) :
    exec (.get c) s = .next (answer s (.get c) (getRsp s c)) := by
  have hlive : s.fsm ≠ .unconstructed := by simp [hidle]
  by_cases hc : c < s.cfg.n
  · rw [getRsp, if_pos hc]
    exact execGet_next.2 ⟨hlive, .inl ⟨hidle, hc, hd, rfl⟩⟩
  · rw [getRsp, if_neg hc]
    exact execGet_next.2 ⟨hlive, .inr (.inl ⟨hidle, hc, rfl⟩)⟩

/-- A request that is started on a sound Device begins its tenure or is answered at once. -/
theorem serve_begins_or_answers (hidle : s.fsm = .idle) (hfree : s.lock = .free) (hd : deviceOk s = true)
    (q : Request) :
    (∃ c v, commandOf q = .set c v ∧ serve q s = .next (beginTenure s c v)) ∨
      ∃ w, serve q s = .next (answer s (commandOf q) w) := by
  have hlive : s.fsm ≠ .unconstructed := by simp [hidle]
  obtain ⟨c, v, hq⟩ | ⟨c, hq⟩ | ⟨e, hq⟩ := decodeRequest_cases q
  · have hcommand : commandOf q = .set c v := by simp only [commandOf, hq]
    by_cases hc : c < s.cfg.n
    · exact .inl ⟨c, v, hcommand, serve_of_set_mayBegin hq (mayBegin_of_valid hfree hd hc)⟩
    · exact .inr ⟨_, hcommand ▸ serve_of_set_badIndex hlive hq hc⟩
  · have hcommand : commandOf q = .get c := by simp only [commandOf, hq]
    exact .inr ⟨_, hcommand ▸ (serve_of_get hq).trans (exec_get_of_idle hidle hd c)⟩
  · have hcommand : commandOf q = q := by simp only [commandOf, hq]
    exact .inr ⟨_, by rw [hcommand, serve_of_reserved hq]; exact badCommand_next.2 ⟨hlive, rfl⟩⟩

end Serve

/-- Settles O28: the two steps of a tenure, then a started request by what it is decoded to. -/
theorem coordinatorMakesItsTransitions : Obligations.CoordinatorMakesItsTransitions := by
  intro s hlen
  have hd := deviceOk_of_lengthOk hlen
  refine ⟨fun hp hf => ?_, fun hp hf => ?_, fun hidle hfree q => ⟨fun c v hq => ⟨fun hc => ?_, fun hc => ?_⟩,
    fun c hq => ?_, fun e hq => ?_⟩⟩
  · exact ⟨_, step_of_rendering hp hf hd, rfl, rfl, rfl, rfl, rfl⟩
  · exact ⟨_, _, step_of_transmitting hp hf, endTenure_fsm .., endTenure_lock .., endTenure_br ..,
      endTenure_buf .., endTenure_wire ..⟩
  · exact ⟨_, serve_of_set_mayBegin hq (mayBegin_of_valid hfree hd hc), rfl, rfl, rfl, rfl, rfl, rfl, rfl⟩
  · exact serve_of_set_badIndex (by simp [hidle]) hq (Nat.not_lt.2 hc)
  · rw [← rspWord_statusOk]
    exact (serve_of_get hq).trans (exec_get_of_idle hidle hd c)
  · exact (serve_of_reserved hq).trans (badCommand_next.2 ⟨by simp [hidle], rfl⟩)

/-! Which waiting request is started (R185) -/

theorem grantIndex_lt (g : Nat) {s : State} (h : s.pending ≠ []) : grantIndex g s < s.pending.length :=
  Nat.mod_lt _ (List.length_pos_of_ne_nil h)

/-- Idle starts the request granted, or nothing waits and the host moves. -/
theorem idleMove_serves_or_host (g : Nat) (s : State) :
    (∃ q, s.pending[grantIndex g s]? = some q ∧ idleMove g s = serve q (takeGranted g s)) ∨
      (s.pending = [] ∧ idleMove g s = hostMove s) := by
  by_cases hp : s.pending = []
  · exact .inr ⟨hp, by simp [idleMove, hp]⟩
  · have hq := List.getElem?_eq_getElem (grantIndex_lt g hp)
    exact .inl ⟨_, hq, by simp only [idleMove, hq]⟩

/-- Before construction the host makes a CONSTRUCT or no move (R217). -/
theorem hostMove_of_unconstructed {s : State} (hf : s.fsm = .unconstructed) :
    (∃ p led order, hostMove s = exec (.construct p led order) (hostDraw s)) ∨ hostMove s = .next (hostDraw s) := by
  cases he : Config.hostEvent s.draws with
  | quiet => exact .inr (by simp only [hostMove, hf, he])
  | construct p led order => exact .inl ⟨p, led, order, by simp only [hostMove, hf, he]⟩
  | teardown => exact .inr (by simp only [hostMove, hf, he])

/-- Settles O30: the step from Idle at the choice drawn, and the step without a Device. -/
theorem someWaitingRequestStarts : Obligations.SomeWaitingRequestStarts := by
  intro s hp
  refine ⟨fun hf => ?_, fun hf => ?_⟩
  · have hstep : step s = idleMove (drawn s).granted (arrivals s) := by
      simp only [step_eq_nextStepBy, nextStepBy, hp, hf, arrivalsOf_drawn]
    rw [hstep]
    obtain ⟨q, hq, hserve⟩ | ⟨hnone, hhost⟩ := idleMove_serves_or_host (drawn s).granted (arrivals s)
    · exact .inl ⟨_, q, hq, hserve⟩
    · exact .inr ⟨hnone, hhost⟩
  · have hstep : step s = hostMove s := by simp only [step_eq_nextStepBy, nextStepBy, hp, hf]
    rw [hstep]
    exact hostMove_of_unconstructed hf

/-- Settles O57: nothing arrives and the index itself is chosen. -/
theorem anyWaitingRequestMayStart : Obligations.AnyWaitingRequestMayStart := by
  intro s i q hp hf hq
  obtain ⟨hi, -⟩ := List.getElem?_eq_some_iff.1 hq
  have hindex : grantIndex i (arrivalsOf [] s) = i := by simp [grantIndex, Nat.mod_eq_of_lt hi]
  have hstarts : Starts { issued := [], granted := i } s q := ⟨hp, hf, by simpa [hindex] using hq⟩
  refine ⟨_, hstarts, (nextStepBy_of_starts hstarts).trans ?_⟩
  rw [takeGranted, hindex, arrivalsOf_pending, List.append_nil]
  rfl

end Sys2Proof.Machine
end

section
/-!
PROOF. Runs under every choice (44_update_coordinator.md R185): how they are cut and put together, and that the
machine's own run is one of them.
-/
namespace Sys2Proof.Machine

/-! Outcomes in sequence -/

section Outcomes
variable {σ φ ρ : Type}

/-- Go on with `f` from the next state; a stop stays that stop. -/
def andThen (o : Host.Outcome σ φ ρ) (f : σ → Host.Outcome σ φ ρ) : Host.Outcome σ φ ρ :=
  match o with
  | .next s => f s
  | .fault r => .fault r
  | .refused r => .refused r

@[simp] theorem andThen_next (s : σ) (f : σ → Host.Outcome σ φ ρ) : andThen (.next s) f = f s := rfl

theorem andThen_assoc (o : Host.Outcome σ φ ρ) (f g : σ → Host.Outcome σ φ ρ) :
    andThen (andThen o f) g = andThen o fun s => andThen (f s) g := by
  cases o <;> rfl

theorem andThen_eq_next {o : Host.Outcome σ φ ρ} {f : σ → Host.Outcome σ φ ρ} {t : σ}
    (h : andThen o f = .next t) : ∃ s, o = .next s ∧ f s = .next t := by
  cases o with
  | next s => exact ⟨s, rfl, h⟩
  | fault | refused => cases h

end Outcomes

theorem runBy_succ (c : Nat → Choice) (k : Nat) (s : State) :
    runBy c (k + 1) s = andThen (runBy c k s) (nextStepBy (c k)) := by
  rw [runBy]
  cases runBy c k s <;> rfl

theorem runBy_succ_of_next {c : Nat → Choice} {k : Nat} {s t : State} (h : runBy c k s = .next t) :
    runBy c (k + 1) s = nextStepBy (c k) t := by
  rw [runBy_succ, h, andThen_next]

/-- The choices from the `k`-th on. -/
def choicesFrom (c : Nat → Choice) (k : Nat) : Nat → Choice := fun j => c (k + j)

/-- A run goes on as a run of its own, under the choices that are left. -/
theorem runBy_add {c : Nat → Choice} {k : Nat} {s t : State} (h : runBy c k s = .next t) (m : Nat) :
    runBy c (k + m) s = runBy (choicesFrom c k) m t := by
  induction m with
  | zero => exact h
  | succ m ih => rw [← Nat.add_assoc, runBy_succ, ih, runBy_succ]; rfl

/-! The machine's own run (R185) -/

section Core
variable (M : Host.Core) (k : Nat) (s : M.State)

/-- A run takes its first step and goes on from there. -/
theorem run_first_step : M.run (k + 1) s = andThen (M.step s) (M.run k) := by
  rw [Host.Core.run]
  cases M.step s <;> rfl

/-- It may as well be cut before its last step, as the runs of the step relation are. -/
theorem run_last_step : M.run (k + 1) s = andThen (M.run k s) M.step := by
  induction k generalizing s with
  | zero =>
    rw [run_first_step]
    show _ = M.step s
    cases M.step s <;> rfl
  | succ k ih =>
    calc M.run (k + 1 + 1) s = andThen (M.step s) (M.run (k + 1)) := run_first_step M _ s
      _ = andThen (M.step s) fun t => andThen (M.run k t) M.step := congrArg _ (funext ih)
      _ = andThen (M.run (k + 1) s) M.step := by rw [run_first_step, andThen_assoc]

end Core

/-- The choices that the machine draws on its own run from `s`; after a stop nothing is chosen any more. -/
def machineChoices (s : State) (k : Nat) : Choice :=
  match core.run k s with
  | .next t => drawn t
  | _ => { issued := [], granted := 0 }

theorem nextStepBy_machineChoices {s t : State} {k : Nat} (h : core.run k s = .next t) :
    nextStepBy (machineChoices s k) t = step t := by
  simp only [machineChoices, h, step_eq_nextStepBy]

/-- Settles O56: at every step the relation is given what the machine draws. -/
theorem machineRunsByItsChoices : Obligations.MachineRunsByItsChoices := by
  intro s
  refine ⟨machineChoices s, fun k => ?_⟩
  induction k with
  | zero => rfl
  | succ k ih =>
    have hlast : core.run (k + 1) s = andThen (core.run k s) step := run_last_step core k s
    rw [hlast, runBy_succ, ih]
    cases h : core.run k s with
    | next t => exact nextStepBy_machineChoices h
    | fault | refused => rfl

end Sys2Proof.Machine
end

section
/-!
PROOF. Every started request is answered (44_update_coordinator.md R183, R185; 92_eei_decisions.md D12): whatever is
chosen meanwhile, within three steps, and no response is taken back; so under weak fairness every waiting one is.
-/
namespace Sys2Proof.Machine

/-! What every run keeps -/

/-- What every step keeps, under whatever choice, every run keeps. -/
theorem runBy_keeps {P : State → Prop} (hstep : ∀ {c t u}, nextStepBy c t = .next u → P t → P u)
    {c : Nat → Choice} {k : Nat} {s t : State} (h : runBy c k s = .next t) (hs : P s) : P t := by
  induction k generalizing t with
  | zero => cases h; exact hs
  | succ k ih =>
    rw [runBy_succ] at h
    obtain ⟨u, hu, hlast⟩ := andThen_eq_next h
    exact hstep hlast (ih hu)

theorem runBy_keeps_machineInv {c : Nat → Choice} {k : Nat} {s t : State} (hm : MachineInv s)
    (h : runBy c k s = .next t) : MachineInv t :=
  runBy_keeps (fun hstep hu => hu.of_stages (nextStepBy_stages hstep)) h hm

/-- An operation takes no response back (R91). -/
theorem exec_keeps_rsp {i : Instr} {s t : State} (h : exec i s = .next t) : s.rsp <+: t.rsp := by
  cases i with
  | sym0 => obtain ⟨-, rfl⟩ := execSym0_next.1 h; exact List.prefix_rfl
  | sym1 => obtain ⟨-, rfl⟩ := execSym1_next.1 h; exact List.prefix_rfl
  | set c v =>
    obtain ⟨-, ⟨-, -, -, rfl⟩ | ⟨-, -, rfl⟩ | ⟨-, rfl⟩⟩ := execSet_next.1 h
    · rw [runTenure_rsp]
      exact List.prefix_append _ _
    · exact List.prefix_rfl
    · exact List.prefix_append _ _
  | get c =>
    obtain ⟨-, ⟨-, -, -, rfl⟩ | ⟨-, -, rfl⟩ | ⟨-, rfl⟩⟩ := execGet_next.1 h
    · exact List.prefix_append _ _
    · exact List.prefix_append _ _
    · exact List.prefix_rfl
  | bufsize n => obtain ⟨-, -, rfl⟩ := execBufsize_next.1 h; exact List.prefix_rfl
  | encode b => obtain ⟨-, rfl⟩ := execEncode_next.1 h; exact List.prefix_rfl
  | render => obtain ⟨-, -, rfl⟩ := execRender_next.1 h; exact List.prefix_rfl
  | decode buf n => obtain ⟨-, -, rfl⟩ := execDecode_next.1 h; exact List.prefix_rfl
  | transmit => obtain ⟨-, rfl⟩ := execTransmit_next.1 h; exact List.prefix_rfl
  | construct p led order =>
    obtain ⟨-, ⟨e, rfl⟩ | ⟨-, -, -, rfl⟩⟩ := execConstruct_next h <;> exact List.prefix_rfl
  | teardown => obtain ⟨-, -, rfl⟩ := execTeardown_next.1 h; exact List.prefix_rfl

theorem badCommand_keeps_rsp {q : Request} {s t : State} (h : badCommand q s = .next t) : s.rsp <+: t.rsp := by
  obtain ⟨-, rfl⟩ := badCommand_next.1 h
  exact List.prefix_append _ _

theorem hostMove_keeps_rsp {s t : State} (h : hostMove s = .next t) : s.rsp <+: t.rsp := by
  obtain ⟨i, hi⟩ | rfl := hostMove_cases h
  · exact exec_keeps_rsp (s := hostDraw s) hi
  · exact List.prefix_rfl

theorem idleMove_keeps_rsp {g : Nat} {s t : State} (h : idleMove g s = .next t) : s.rsp <+: t.rsp := by
  obtain ⟨c, v, -, rfl⟩ | ⟨i, hi⟩ | ⟨q, hq⟩ | hm := idleMove_cases h
  · exact List.prefix_rfl
  · exact exec_keeps_rsp (s := takeGranted g s) hi
  · exact badCommand_keeps_rsp (s := takeGranted g s) hq
  · exact hostMove_keeps_rsp hm

theorem nextStepBy_keeps_rsp {c : Choice} {s t : State} (h : nextStepBy c s = .next t) : s.rsp <+: t.rsp := by
  obtain ⟨i, hi⟩ | ⟨q, hq⟩ | ⟨-, -, hm⟩ | ⟨-, -, hm⟩ | ⟨-, -, -, rfl⟩ | ⟨-, -, rfl⟩ := nextStepBy_cases h
  · exact exec_keeps_rsp (s := { s with port := none }) hi
  · exact badCommand_keeps_rsp (s := { s with port := none }) hq
  · exact hostMove_keeps_rsp hm
  · exact idleMove_keeps_rsp (s := arrivalsOf c.issued s) hm
  · exact List.prefix_rfl
  · rw [endTenure_rsp]
    exact List.prefix_append _ _

theorem runBy_keeps_rsp {c : Nat → Choice} {k : Nat} {s t : State} (h : runBy c k s = .next t) :
    s.rsp <+: t.rsp :=
  runBy_keeps (P := fun u => s.rsp <+: u.rsp) (fun hstep hu => hu.trans (nextStepBy_keeps_rsp hstep)) h
    List.prefix_rfl

/-! Rendering and Transmitting -/

section Step
variable (c : Choice) {s : State} (hp : s.port = none)
include hp

/-- In Rendering the step is the pass and its end, over what arrives meanwhile. -/
theorem nextStepBy_of_rendering (hf : s.fsm = .rendering) (hd : deviceOk s = true) :
    nextStepBy c s = .next (renderEnds (renderPass (arrivalsOf c.issued s))) := by
  have hr : exec .render (arrivalsOf c.issued s) = .next (renderPass (arrivalsOf c.issued s)) :=
    execRender_next.2 ⟨hf, hd, rfl⟩
  simp only [nextStepBy, hp, hf, renderingMove, hr]

/-- In Transmitting the step is TRANSMIT and the end of the tenure, over what arrives meanwhile. -/
theorem nextStepBy_of_transmitting (hf : s.fsm = .transmitting) : ∃ r,
    nextStepBy c s = .next (endTenure (transmitFrame (arrivalsOf c.issued s) r) r) := by
  have ht : exec .transmit (arrivalsOf c.issued s) =
      .next (transmitFrame (arrivalsOf c.issued s) (nextTxResult (arrivalsOf c.issued s))) :=
    execTransmit_next.2 ⟨hf, rfl⟩
  exact ⟨nextTxResult (arrivalsOf c.issued s), by simp only [nextStepBy, hp, hf, transmittingMove, ht]⟩

end Step

/-! A started request is answered (R183) -/

/-- Whatever is chosen and whatever arrives at the two steps after a SET has begun, they are the rest of its tenure. -/
theorem tenure_ends_in_two_steps (c₁ c₂ : Choice) {s : State} (hp : s.port = none) (hd : deviceOk s = true) (c : Nat)
    (v : Byte) : ∃ r, andThen (nextStepBy c₁ (beginTenure s c v)) (nextStepBy c₂) =
      .next (arrivalsOf c₂.issued (arrivalsOf c₁.issued (runTenure s c v r))) := by
  have hrender := nextStepBy_of_rendering c₁ (s := beginTenure s c v) hp rfl (deviceOk_beginTenure hd c v)
  obtain ⟨r, htransmit⟩ := nextStepBy_of_transmitting c₂
    (s := renderEnds (renderPass (arrivalsOf c₁.issued (beginTenure s c v)))) hp rfl
  refine ⟨r, ?_⟩
  rw [hrender, andThen_next, htransmit, tenure_with_arrivals]

/-- In Idle the lock is free (R27) and the Device has the sizes of LENGTH_OK. -/
theorem MachineInv.of_idle {s : State} (hm : MachineInv s) (hf : s.fsm = .idle) :
    s.lock = .free ∧ deviceOk s = true := by
  have l := hm.live (by simp [hf])
  refine ⟨?_, deviceOk_of_lengthOk ⟨l.size, l.registers⟩⟩
  cases hlock : s.lock with
  | free => rfl
  | held => simpa [hf] using hm.lock.1 hlock

/-- The answer at once is given by the step that starts the request, the answer to a tenure two steps later. -/
theorem served_is_answered {c : Nat → Choice} {s u : State} {q : Request} (hp : u.port = none) (hf : u.fsm = .idle)
    (hfree : u.lock = .free) (hd : deviceOk u = true) (hfirst : runBy c 1 s = serve q u) :
    ∃ k t w, 1 ≤ k ∧ k ≤ 3 ∧ runBy c k s = .next t ∧ t.fsm = .idle ∧ t.rsp = u.rsp ++ [⟨commandOf q, w⟩] := by
  obtain ⟨i, v, hq, hbegins⟩ | ⟨w, hanswer⟩ := serve_begins_or_answers hf hfree hd q
  · obtain ⟨r, htenure⟩ := tenure_ends_in_two_steps (c 1) (c 2) hp hd i v
    have hrun : runBy c 3 s = .next (arrivalsOf (c 2).issued (arrivalsOf (c 1).issued (runTenure u i v r))) := by
      rw [runBy_succ, runBy_succ_of_next (hfirst.trans hbegins), htenure]
    refine ⟨3, _, setRsp r, by omega, le_rfl, hrun, ?_, ?_⟩
    · rw [arrivalsOf_fsm, arrivalsOf_fsm, runTenure_fsm]
    · rw [arrivalsOf_rsp, arrivalsOf_rsp, runTenure_rsp, hq]
  · exact ⟨1, _, w, le_rfl, by omega, hfirst.trans hanswer, hf, rfl⟩

/-- Settles O58: the first step serves the request in a state whose lock is free. -/
theorem startedRequestIsAnswered : Obligations.StartedRequestIsAnswered := by
  intro c s q hm hstarts
  have ⟨hp, hf, _⟩ := hstarts
  obtain ⟨hfree, hd⟩ := hm.of_idle hf
  exact served_is_answered (u := takeGranted (c 0).granted (arrivalsOf (c 0).issued s)) hp hf hfree hd
    ((runBy_succ_of_next rfl).trans (nextStepBy_of_starts hstarts))

/-- Settles O59: weak fairness gives the time at which the request is started, and the response that it then gets comes
after all that were given before. -/
theorem everyWaitingRequestIsAnswered : Obligations.EveryWaitingRequestIsAnswered := by
  intro c s hm hfair k t q hk hq
  obtain ⟨j, u, hkj, hj, hstarts⟩ := hfair k t q hk hq
  obtain ⟨m, rfl⟩ := Nat.exists_eq_add_of_le hkj
  obtain ⟨d, u', w, hd, -, hrun, -, hrsp⟩ :=
    startedRequestIsAnswered (choicesFrom c (k + m)) u q (runBy_keeps_machineInv hm hj) hstarts
  have hgrew : t.rsp <+: u.rsp := runBy_keeps_rsp ((runBy_add hk m).symm.trans hj)
  refine ⟨k + m + d, u', w, by omega, (runBy_add hj d).trans hrun, ?_⟩
  rw [hrsp, List.drop_append_of_le_length hgrew.length_le]
  exact List.mem_append_right _ List.mem_cons_self

end Sys2Proof.Machine
end

section
/-!
PROOF. Errors and permissions (60_exceptions.md R202 to R219): a bad index and a bad configuration change nothing but
what reports them, and each operation writes only the state it is named for.
-/
namespace Sys2Proof.Machine

/-! What an operation may write (R219) -/

/-- From `s` to `t` only PENDING, the responses and the last result changed. -/
def OnlyInterfaces (s t : State) : Prop :=
  ∃ pending rsp out, t = { s with pending := pending, rsp := rsp, out := out }

section OnlyInterfaces
variable (s : State)

theorem onlyInterfaces_answer (q : Request) (w : Rsp) : OnlyInterfaces s (answer s q w) := ⟨_, _, _, rfl⟩

theorem onlyInterfaces_returns (r : FnResult) : OnlyInterfaces s (returns s r) := ⟨_, _, _, rfl⟩

theorem onlyInterfaces_waits (q : Request) : OnlyInterfaces s (waits s q) := ⟨_, _, _, rfl⟩

end OnlyInterfaces

/-- But for SET and the lifecycle, RENDER is the pass, TRANSMIT hands over the frame, and the other operations reach
the interfaces only (R219). -/
theorem exec_next_of_ne_set {i : Instr} {s t : State} (hc : ∀ p led order, i ≠ .construct p led order)
    (ht : i ≠ .teardown) (hs : ∀ c v, i ≠ .set c v) (h : exec i s = .next t) :
    (i = .render ∧ t = renderPass s) ∨ (i = .transmit ∧ ∃ r, t = transmitFrame s r) ∨ OnlyInterfaces s t := by
  cases i with
  | sym0 =>
    obtain ⟨-, rfl⟩ := execSym0_next.1 h
    exact .inr (.inr (onlyInterfaces_returns _ _))
  | sym1 =>
    obtain ⟨-, rfl⟩ := execSym1_next.1 h
    exact .inr (.inr (onlyInterfaces_returns _ _))
  | set c v => exact absurd rfl (hs c v)
  | get c =>
    obtain ⟨-, ⟨-, -, -, rfl⟩ | ⟨-, -, rfl⟩ | ⟨-, rfl⟩⟩ := execGet_next.1 h
    · exact .inr (.inr (onlyInterfaces_answer _ _ _))
    · exact .inr (.inr (onlyInterfaces_answer _ _ _))
    · exact .inr (.inr (onlyInterfaces_waits _ _))
  | bufsize n =>
    obtain ⟨-, -, rfl⟩ := execBufsize_next.1 h
    exact .inr (.inr (onlyInterfaces_returns _ _))
  | encode b =>
    obtain ⟨-, rfl⟩ := execEncode_next.1 h
    exact .inr (.inr (onlyInterfaces_returns _ _))
  | render =>
    obtain ⟨-, -, rfl⟩ := execRender_next.1 h
    exact .inl ⟨rfl, rfl⟩
  | decode buf n =>
    obtain ⟨-, -, rfl⟩ := execDecode_next.1 h
    exact .inr (.inr (onlyInterfaces_returns _ _))
  | transmit =>
    obtain ⟨-, rfl⟩ := execTransmit_next.1 h
    exact .inr (.inl ⟨rfl, _, rfl⟩)
  | construct p led order => exact absurd rfl (hc p led order)
  | teardown => exact absurd rfl ht

/-- Settles O52: only the lifecycle writes the configuration; for the rest, the pass leaves everything but the buffer
and the position alone, and TRANSMIT everything but WIRE. -/
theorem onlyTheNamedOperationsWrite : Obligations.OnlyTheNamedOperationsWrite := by
  intro i s t h hc ht
  obtain ⟨hcfg, hrole, hname, hinit⟩ := exec_keeps_configuration hc ht h
  refine ⟨hcfg, hrole, hname, hinit, fun hset => ?_, fun hset hrender => ?_, fun hset htransmit => ?_⟩
  · obtain ⟨-, rfl⟩ | ⟨-, _, rfl⟩ | ⟨_, _, _, rfl⟩ := exec_next_of_ne_set hc ht hset h <;>
      exact ⟨rfl, rfl, rfl, rfl⟩
  · obtain ⟨hi, -⟩ | ⟨-, _, rfl⟩ | ⟨_, _, _, rfl⟩ := exec_next_of_ne_set hc ht hset h
    · exact absurd hi hrender
    · exact ⟨rfl, rfl⟩
    · exact ⟨rfl, rfl⟩
  · obtain ⟨-, rfl⟩ | ⟨hi, -⟩ | ⟨_, _, _, rfl⟩ := exec_next_of_ne_set hc ht hset h
    · rfl
    · exact absurd hi htransmit
    · rfl

/-! A bad index (R202) -/

/-- The response `BAD_INDEX` carries no data (R91). -/
theorem rspWord_statusBadIndex : rspWord statusBadIndex 0#8 = 0x0200#16 := by decide

/-- Settles O19: SET looks at its index before the lock, GET in Idle before the Device. -/
theorem badIndexChangesNothing : Obligations.BadIndexChangesNothing := by
  intro s c v hlive hc
  have hbad : ¬ c < s.cfg.n := Nat.not_lt.2 hc
  rw [← rspWord_statusBadIndex]
  exact ⟨execSet_next.2 ⟨hlive, .inr (.inr ⟨hbad, rfl⟩)⟩,
    fun hidle => execGet_next.2 ⟨hlive, .inr (.inl ⟨hidle, hbad, rfl⟩)⟩⟩

/-! The errors of CONSTRUCT, in their order (R204, R205, R209) -/

theorem cfgOf_n (p : Params) (leds : Nat) (order : List Char) : (cfgOf p leds order).n = 3 * leds := Nat.mul_comm _ _

theorem cfgOf_s (p : Params) (leds : Nat) (order : List Char) : (cfgOf p leds order).s = bufSize p (3 * leds) :=
  congrArg (bufSize p) (cfgOf_n p leds order)

section ConstructErrors
variable {s : State} {p : Params} {led : Option Int} {order : Option (List Char)} (hs : s.fsm = .unconstructed)
include hs

theorem exec_construct_of_badLedCount (hled : ledCountOf led ≤ 0) :
    exec (.construct p led order) s = .next (constructFails s (.configurationError 1)) := by
  simp only [exec, execConstruct, if_pos hs, if_pos hled]

variable (hled : 0 < ledCountOf led)
include hled

theorem exec_construct_of_unknownLetter (hk : lettersKnown (colorOrderOf order) = false) :
    exec (.construct p led order) s = .next (constructFails s (.configurationError 2)) := by
  simp only [exec, execConstruct, if_pos hs, if_neg (not_le.2 hled), if_pos hk]

theorem exec_construct_of_tooLarge (hk : lettersKnown (colorOrderOf order) = true) (hp : encodable p = true)
    (hlarge : tooLarge p (3 * (ledCountOf led).toNat) = true ∨
      tooLarge p (bufSize p (3 * (ledCountOf led).toNat)) = true) :
    exec (.construct p led order) s = .next (constructFails s .allocationError) := by
  have hlarge' := Bool.or_eq_true_iff.2 hlarge
  simp only [exec, execConstruct, cfgOf_n, cfgOf_s, if_pos hs, if_neg (not_le.2 hled), hk, hp, if_pos hlarge',
    Bool.true_eq_false, if_false]

end ConstructErrors

/-- Settles O33: each check is reached when those before it pass. -/
theorem constructFailsFast : Obligations.ConstructFailsFast := by
  intro s p led order hs
  exact ⟨exec_construct_of_badLedCount hs, exec_construct_of_unknownLetter hs, exec_construct_of_tooLarge hs⟩

end Sys2Proof.Machine
end

section
/-!
PROOF. Construction, teardown and the stops (70_reset_and_hazards.md R230 to R236, R250; 92_eei_decisions.md D18).
-/
namespace Sys2Proof.Machine

/-! With no Device (R234, D18) -/

section Premises
variable {s : State}

theorem whenConstructed_of_unconstructed (hs : s.fsm = .unconstructed) (k : Host.Outcome State Fault Refusal) :
    whenConstructed s k = .refused .notConstructed := if_pos hs

theorem whenConstructed_of_live (hlive : s.fsm ≠ .unconstructed) (k : Host.Outcome State Fault Refusal) :
    whenConstructed s k = k := if_neg hlive

theorem whenDeviceOk_of_bad (hd : ¬ deviceOk s = true) (k : Host.Outcome State Fault Refusal) :
    whenDeviceOk s k = .fault .badGeometry := if_neg hd

/-- Every operation but CONSTRUCT asks for a Device first. -/
theorem exec_of_unconstructed {i : Instr} (hs : s.fsm = .unconstructed)
    (hc : ∀ p led order, i ≠ .construct p led order) : exec i s = .refused .notConstructed := by
  cases i with
  | construct p led order => exact absurd rfl (hc p led order)
  | sym0 | sym1 | set | get | bufsize | encode | render | decode | transmit | teardown =>
    exact whenConstructed_of_unconstructed hs _

theorem exec_construct_of_live (hlive : s.fsm ≠ .unconstructed) (p : Params) (led : Option Int)
    (order : Option (List Char)) : exec (.construct p led order) s = .refused .alreadyConstructed := if_neg hlive

end Premises

/-- Settles O38: the three refusals, each from the premise its operation asks for first. -/
theorem unconstructedRefusesEverythingElse : Obligations.UnconstructedRefusesEverythingElse := fun _ _ =>
  ⟨exec_of_unconstructed, fun hs _ => whenConstructed_of_unconstructed hs _, exec_construct_of_live⟩

/-! TEARDOWN and reconstruction (R235, R236) -/

theorem exec_teardown_of_idle {s : State} (hidle : s.fsm = .idle) (hp : s.pending = []) :
    exec .teardown s = .next (removed s) := execTeardown_next.2 ⟨hidle, hp, rfl⟩

/-- Settles O36: what TEARDOWN leaves is `removed`, in which there is no Device. -/
theorem teardownRemovesTheDevice : Obligations.TeardownRemovesTheDevice := fun s hidle hp =>
  ⟨removed s, exec_teardown_of_idle hidle hp, rfl, removed_out s, removed_draws s, removed_rsp s, fun _ _ =>
    ⟨exec_of_unconstructed (removed_fsm s) nofun, exec_of_unconstructed (removed_fsm s) nofun⟩⟩

theorem constructed_fresh (s : State) (p : Params) (leds : Nat) (order : List Char) :
    Fresh (constructed s p leds order) := by
  refine ⟨fun v hv => ?_, constructed_wire ..⟩
  rw [constructed_br] at hv
  exact List.eq_of_mem_replicate hv

/-- CONSTRUCT takes nothing over from the state before it but the interfaces and the draw counter (R35). -/
theorem constructed_of_other (s s' : State) (p : Params) (leds : Nat) (order : List Char) :
    constructed s' p leds order =
      { constructed s p leds order with rsp := s'.rsp, out := s'.out, port := s'.port, draws := s'.draws } := rfl

theorem execAll_teardown_construct {s : State} {p : Params} {led : Option Int} {order : Option (List Char)}
    (hidle : s.fsm = .idle) (hp : s.pending = []) (hb : Buildable p led order) :
    execAll [.teardown, .construct p led order] s =
      .next (constructed (removed s) p (ledCountOf led).toNat (colorOrderOf order)) := by
  simp only [execAll, exec_teardown_of_idle hidle hp, exec_construct_of_buildable (removed_fsm s) hb]

/-- Settles O37: TEARDOWN keeps the interfaces and the draw counter, and CONSTRUCT takes over nothing else. -/
theorem nothingSurvivesReconstruction : Obligations.NothingSurvivesReconstruction := by
  intro s s' p led order hidle hp hidle' hp' hb
  exact ⟨_, _, execAll_teardown_construct hidle hp hb, execAll_teardown_construct hidle' hp' hb,
    constructed_fresh _ _ _ _, constructed_of_other (removed s) (removed s') _ _ _⟩

/-! What CONSTRUCT builds (R230 to R232) -/

/-- Settles O31: CONSTRUCT completes in `constructed`, whose channels are three for every LED. -/
theorem constructBuildsTheDevice : Obligations.ConstructBuildsTheDevice := by
  intro s p led order hs hb
  have hn : (ledCountOf led).toNat * Config.colorsPerLed = 3 * (ledCountOf led).toNat := Nat.mul_comm _ _
  have horder : order = none ∨ order = some [] → colorOrderOf order = ['G', 'R', 'B'] := by
    rintro (rfl | rfl) <;> rfl
  refine ⟨_, exec_construct_of_buildable hs hb, rfl, cfgOf_n .., rfl, cfgOf_s .., rfl, horder, ?_, ?_, ?_,
    fun _ => rfl, rfl, rfl, rfl, rfl, rfl, rfl, rfl⟩
  · rw [constructed_br, hn]
  · rw [constructed_role, hn]
  · rw [constructed_nameOf, hn]
    rfl

/-- The configuration CONSTRUCT fixes meets R11 when its parameters do: the LED count was checked, and BUFSIZE has room
for the frame (R106). -/
theorem cfgOf_wf {p : Params} {leds : Nat} (hleds : 1 ≤ leds) (hp : p.wf = true) (order : List Char) :
    (cfgOf p leds order).wf = true := by
  have hroom : leds * Config.colorsPerLed * p.w ≤ bufSize p (leds * Config.colorsPerLed) := by
    rw [bufSize_split]
    omega
  simp [Cfg.wf, Cfg.wfLedCount, Cfg.wfSize, cfgOf, hleds, hroom, hp]

section LaunchPremises
variable (s : State) (p : Params) (leds : Nat) (order : List Char)

theorem constructed_lengthOk : LengthOk (constructed s p leds order) := ⟨rfl, List.length_replicate⟩

theorem constructed_ready : Ready (constructed s p leds order) where
  live := constructed_fsm ..
  free := constructed_lock ..
  memory := memWf_nil
  length := constructed_lengthOk ..
  resetRegion _ _ := rfl

end LaunchPremises

/-- Settles O32: premise by premise, for `constructed`. -/
theorem constructMeetsTheLaunchPremises : Obligations.ConstructMeetsTheLaunchPremises := by
  intro s p led order hs hb hwf
  have hready := constructed_ready s p (ledCountOf led).toNat (colorOrderOf order)
  exact ⟨_, exec_construct_of_buildable hs hb, cfgOf_wf (Int.pos_iff_toNat_pos.1 hb.leds) hwf _,
    ⟨hready.live, hready.free, rfl⟩, hready.resetRegion, hready.length, constructed_fresh _ _ _ _,
    ⟨rfl, hready.live, hready.free⟩, hready⟩

/-! The optional operands of CONSTRUCT (R231) -/

/-- CONSTRUCT reads its optional operands only with their defaults filled in. -/
theorem exec_construct_congr {led led' : Option Int} {order order' : Option (List Char)}
    (hled : ledCountOf led = ledCountOf led') (horder : colorOrderOf order = colorOrderOf order') (p : Params)
    (s : State) : exec (.construct p led order) s = exec (.construct p led' order') s := by
  simp only [exec, execConstruct, hled, horder]

theorem colorOrderOf_some {order : List Char} (hne : order ≠ []) : colorOrderOf (some order) = order := by
  cases order with
  | nil => exact absurd rfl hne
  | cons => rfl

/-- One letter outside the alphabet makes the colour order bad (R167). -/
theorem lettersKnown_eq_false {order : List Char} {l : Char} (hl : l ∈ order) (hr : l ≠ 'R') (hg : l ≠ 'G')
    (hb : l ≠ 'B') : lettersKnown order = false := by
  have hnone : roleOfLetter l = none := by simp [roleOfLetter, hr, hg, hb]
  exact List.all_eq_false.2 ⟨l, hl, by simp [hnone]⟩

/-- Settles O34: the defaults by the two readings of an absent operand; a bad value stops at its check, or at the check
of the LED count before it. -/
theorem constructDefaults : Obligations.ConstructDefaults := by
  intro s p led order
  refine ⟨exec_construct_congr rfl rfl p s, exec_construct_congr rfl rfl p s, fun hs hbad => ?_⟩
  by_cases hled : ledCountOf led ≤ 0
  · exact ⟨1, exec_construct_of_badLedCount hs hled⟩
  · obtain ⟨n, rfl, hn⟩ | ⟨o, rfl, l, hl, hr, hg, hb⟩ := hbad
    · exact absurd hn hled
    · have hk : lettersKnown (colorOrderOf (some o)) = false := by
        rw [colorOrderOf_some (List.ne_nil_of_mem hl)]
        exact lettersKnown_eq_false hl hr hg hb
      exact ⟨2, exec_construct_of_unknownLetter hs (not_le.1 hled) hk⟩

/-! Stops on a live Device, and the parameters that U3 refuses -/

section Stops
variable {s : State}

section Live
variable (hlive : s.fsm ≠ .unconstructed)
include hlive

theorem exec_teardown_of_busy (hbusy : s.fsm ≠ .idle ∨ s.pending ≠ []) :
    exec .teardown s = .refused .teardownBusy :=
  (whenConstructed_of_live hlive _).trans (if_neg (not_and_or.2 hbusy))

theorem exec_render_outside (hf : s.fsm ≠ .rendering) : exec .render s = .refused .outsideTenure :=
  (whenConstructed_of_live hlive _).trans (if_neg hf)

theorem exec_transmit_outside (hf : s.fsm ≠ .transmitting) : exec .transmit s = .refused .outsideTenure :=
  (whenConstructed_of_live hlive _).trans (if_neg hf)

theorem exec_bufsize_zero : exec (.bufsize 0) s = .refused .zeroChannels :=
  (whenConstructed_of_live hlive _).trans (if_pos rfl)

theorem runPort_of_reservedSymbol {y : Nat} (hy : symDecode s.cfg.params y = none) :
    runPort (.symbol y) s = .refused .reservedSymbol := by
  simp only [runPort, decodeFetch, decodeSymbol, hy, whenConstructed_of_live hlive]

end Live

section WrongSize

theorem not_deviceOk (h : s.br.length ≠ s.cfg.n ∨ s.cfg.s < s.cfg.n * s.cfg.params.w) : ¬ deviceOk s = true := by
  rw [deviceOk_iff, not_and_or, not_le]
  exact h

variable (hd : ¬ deviceOk s = true)
include hd

theorem exec_set_of_wrongSize (hlive : s.fsm ≠ .unconstructed) (hfree : s.lock = .free) {c : Nat} (hc : c < s.cfg.n)
    (v : Byte) : exec (.set c v) s = .fault .badGeometry := by
  rw [exec, execSet, whenConstructed_of_live hlive, if_pos (validIndex_iff.2 hc), if_pos hfree, whenDeviceOk_of_bad hd]

theorem exec_get_of_wrongSize (hidle : s.fsm = .idle) {c : Nat} (hc : c < s.cfg.n) :
    exec (.get c) s = .fault .badGeometry := by
  rw [exec, execGet, whenConstructed_of_live (by simp [hidle]), if_pos hidle, if_pos (validIndex_iff.2 hc),
    whenDeviceOk_of_bad hd]

theorem exec_render_of_wrongSize (hf : s.fsm = .rendering) : exec .render s = .fault .badGeometry := by
  rw [exec, execRender, whenConstructed_of_live (by simp [hf]), if_pos hf, whenDeviceOk_of_bad hd]

end WrongSize

theorem exec_construct_of_notEncodable {p : Params} {led : Option Int} {order : Option (List Char)}
    (hs : s.fsm = .unconstructed) (hled : 0 < ledCountOf led) (hk : lettersKnown (colorOrderOf order) = true)
    (hp : encodable p = false) : exec (.construct p led order) s = .refused .illFormedConfig := by
  simp only [exec, execConstruct, if_pos hs, if_neg (not_le.2 hled), hk, if_pos hp, Bool.true_eq_false, if_false]

end Stops

/-- Settles O39: each stop by its own lemma; the reserved symbol is met with the port emptied. -/
theorem stopsAreNamed : Obligations.StopsAreNamed := by
  refine ⟨fun _ => exec_teardown_of_busy, fun _ => exec_render_outside, fun _ => exec_transmit_outside,
    fun s hsize => ?_, fun _ _ _ _ => exec_construct_of_notEncodable, fun _ => exec_bufsize_zero,
    fun s y hlive hp hy => ?_⟩
  · have hd := not_deviceOk hsize
    exact ⟨fun hidle hfree c v hc =>
        ⟨exec_set_of_wrongSize hd (by simp [hidle]) hfree hc v, exec_get_of_wrongSize hd hidle hc⟩,
      exec_render_of_wrongSize hd⟩
  · calc step s = runPort (.symbol y) { s with port := none } := step_of_port hp
      _ = .refused .reservedSymbol := runPort_of_reservedSymbol (s := { s with port := none }) hlive hy

end Sys2Proof.Machine
end
